-- ==== Sys2Proof/Word.lean ====
section
/-! DEFINITION. The widths of the block: bytes, words, opcodes, beats and read addresses. -/

namespace Sys2Proof

/-- A byte is 8 bits (R9). -/
abbrev Byte := BitVec 8

/-- A word is 32 bits (R9): the width of the checksum, the count and the type code (R7). -/
abbrev Word := BitVec 32

/-- The opcode field `cmd_op` (R21, R70). -/
abbrev Opcode := BitVec 4

/-- One beat `op, data`: bits 35:32 hold the opcode and bits 31:0 the operand (R70). -/
abbrev Beat := BitVec 36

/-- The read-register select `rd_addr` (R21, R51). -/
abbrev ReadAddr := BitVec 3

end Sys2Proof
end

