-- ==== Sys2Proof/Syntax.lean ====
section
/-! DEFINITION. The commands of PNGCRC-CMD v1 (R72), one constructor per row of spec/opcode_table.json with its decoded
operand (R73), and the assembly statements of R76 to R78. -/

namespace Sys2Proof

/-- A decoded beat. Operand bits that a form ignores (R74) are no part of the instruction. Every field is exactly as wide as
the operand form says, so that every term stands for a beat. -/
inductive Instr where
  /-- 0x0, operand form "none" (R180). -/
  | nop
  /-- 0x1, operand form "none" (R110). -/
  | crcInit
  /-- 0x2, operand form "bytes, n = 1" (R111). -/
  | crcB1 (b0 : Byte)
  /-- 0x3, operand form "bytes, n = 2", first byte first (R112). -/
  | crcB2 (b0 b1 : Byte)
  /-- 0x4, operand form "bytes, n = 3", first byte first (R113). -/
  | crcB3 (b0 b1 b2 : Byte)
  /-- 0x5, operand form "bytes, n = 4", first byte first (R114). -/
  | crcB4 (b0 b1 b2 b3 : Byte)
  /-- 0x6, operand form "type4" (R155). -/
  | typeLoad (t0 t1 t2 t3 : Byte)
  /-- 0x7, operand form "type4" (R115). -/
  | chunkStart (t0 t1 t2 t3 : Byte)
  /-- 0x8, operand form "cmp32" (R116). -/
  | crcCheck (expected : Word)
  /-- 0x9, operand form "none" (R181). -/
  | clrErr
  /-- 0xA, reserved (R182). -/
  | reservedA
  /-- 0xB, reserved (R182). -/
  | reservedB
  /-- 0xC, reserved (R182). -/
  | reservedC
  /-- 0xD, reserved (R182). -/
  | reservedD
  /-- 0xE, reserved (R182). -/
  | reservedE
  /-- 0xF, reserved (R182). -/
  | reservedF
  deriving DecidableEq, Repr

/-- The operand forms of R73. -/
inductive OperandForm where
  | none
  | bytes (n : Nat)
  | type4
  | cmp32
  deriving DecidableEq, Repr

/-- The ten mnemonics an assembly line can name (R72, R77: a reserved opcode has only `.beat`). -/
inductive Mnemonic where
  | nop | crcInit | crcB1 | crcB2 | crcB3 | crcB4 | typeLoad | chunkStart | crcCheck | clrErr
  deriving DecidableEq, Repr

/-- The operand of an assembly line: none, a number, or the characters of a quoted string (R76). -/
inductive Operand where
  | absent
  | number (v : Nat)
  | text (cs : List Char)
  deriving DecidableEq, Repr

/-- One assembly statement: a command (R76), the `.beat` directive (R77) or a pseudo-instruction (R78). -/
inductive Stmt where
  | command (m : Mnemonic) (o : Operand)
  | beat (v : Nat)
  | crcStr (s : List Char)
  | crcHex (bs : List Nat)
  | chunkCrc (t s : List Char)
  | restart
  deriving DecidableEq, Repr

end Sys2Proof
end

