-- ==== Sys2Proof/WellFormed.lean ====
section
/-! DEFINITION. When an assembly statement stands for beats (R76 to R78). A decoded `Instr` needs no check of its own: each of its
fields has the width of its operand form, and every opcode has a row (R75). -/

namespace Sys2Proof

/-- The operand form of each mnemonic (R72). -/
def Mnemonic.form : Mnemonic → OperandForm
  | .nop => .none
  | .crcInit => .none
  | .crcB1 => .bytes 1
  | .crcB2 => .bytes 2
  | .crcB3 => .bytes 3
  | .crcB4 => .bytes 4
  | .typeLoad => .type4
  | .chunkStart => .type4
  | .crcCheck => .cmp32
  | .clrErr => .none

/-- R76: every character of a string lies in 0x00..0x7F. -/
def asciiText (cs : List Char) : Bool := cs.all fun c => decide (c.toNat < 0x80)

/-- R76: which operands each operand form admits. -/
def Operand.wf : OperandForm → Operand → Bool
  | .none, .absent => true
  | .none, .number _ => false
  | .none, .text _ => false
  | .bytes _, .absent => false
  | .bytes n, .number v => decide (v < 2 ^ (8 * n))
  | .bytes n, .text cs => decide (cs.length = n) && asciiText cs
  | .type4, .absent => false
  | .type4, .number v => decide (v < 2 ^ 32)
  | .type4, .text cs => decide (cs.length = 4) && asciiText cs
  | .cmp32, .absent => false
  | .cmp32, .number v => decide (v < 2 ^ 32)
  | .cmp32, .text _ => false

/-- R76 to R78: which statements are no assembly error. -/
def Stmt.wf : Stmt → Bool
  | .command m o => o.wf m.form
  | .beat v => decide (v < 2 ^ 36)
  | .crcStr s => asciiText s
  | .crcHex bs => bs.all fun b => decide (b < 256)
  | .chunkCrc t s => decide (t.length = 4) && asciiText t && asciiText s
  | .restart => true

end Sys2Proof
end

