-- ==== Sys2Proof/Decode.lean ====
section
/-! DEFINITION. Beats to instructions and back (R70 to R75, R77). -/

namespace Sys2Proof

/-- `byte(w, k)` of R10: bits 8k+7 down to 8k of a word. -/
def byteOf (w : Word) (k : Nat) : Byte := w.extractLsb' (8 * k) 8

/-- Four bytes in stream order as one word, the first byte most significant (R55, R27). -/
def packWord (b0 b1 b2 b3 : Byte) : Word := b0 ++ b1 ++ b2 ++ b3

/-- Beat bits 35:32, `cmd_op` (R70). -/
def beatOp (b : Beat) : Opcode := b.extractLsb' 32 4

/-- Beat bits 31:0, `cmd_data` (R70). -/
def beatData (b : Beat) : Word := b.extractLsb' 0 32

/-- A beat from its two fields (R70). -/
def mkBeat (op : Opcode) (data : Word) : Beat := op ++ data

/-- The instruction that an opcode and an operand stand for: the opcode map of R72, read by the four opcode bits as
spec/opcode_table.json writes them, and the operand forms of R73. Only `op` selects the row (R71). -/
def decodeFields (op : Opcode) (data : Word) : Instr :=
  match op.getLsbD 3, op.getLsbD 2, op.getLsbD 1, op.getLsbD 0 with
  | false, false, false, false => .nop
  | false, false, false, true => .crcInit
  | false, false, true, false => .crcB1 (byteOf data 0)
  | false, false, true, true => .crcB2 (byteOf data 1) (byteOf data 0)
  | false, true, false, false => .crcB3 (byteOf data 2) (byteOf data 1) (byteOf data 0)
  | false, true, false, true => .crcB4 (byteOf data 3) (byteOf data 2) (byteOf data 1) (byteOf data 0)
  | false, true, true, false => .typeLoad (byteOf data 3) (byteOf data 2) (byteOf data 1) (byteOf data 0)
  | false, true, true, true => .chunkStart (byteOf data 3) (byteOf data 2) (byteOf data 1) (byteOf data 0)
  | true, false, false, false => .crcCheck data
  | true, false, false, true => .clrErr
  | true, false, true, false => .reservedA
  | true, false, true, true => .reservedB
  | true, true, false, false => .reservedC
  | true, true, false, true => .reservedD
  | true, true, true, false => .reservedE
  | true, true, true, true => .reservedF

/-- Every 36-bit beat has a defined instruction (R75). -/
def decode (b : Beat) : Instr := decodeFields (beatOp b) (beatData b)

/-- Why a bit pattern is no beat. -/
inductive DecodeError where
  /-- The pattern has a one above bit 35: there is only one beat length (R71). Safe: nothing is decoded. -/
  | widerThanABeat
  deriving DecidableEq, Repr

/-- The decoder on a bit pattern given as a number: total, and rejecting by name what is no beat. -/
def decodeBits (w : Nat) : Except DecodeError Instr :=
  if w < 2 ^ 36 then .ok (decode (BitVec.ofNat 36 w)) else .error .widerThanABeat

/-- The host's question about one row of the table: a beat is ONE word of 36 bits, so its bit numbers are the table's own and
no bytes are laid out. `nbits` may be any width that holds the beat: the bits of `w` above it are zero. -/
def decodeTableWord (_nbits w : Nat) : Option Instr :=
  match decodeBits w with
  | .ok i => some i
  | .error _ => none

/-! ### The encoder, written from R72, R73 and R77. -/

/-- The opcode of each instruction (R72). -/
def opcodeOf : Instr → Opcode
  | .nop => 0x0
  | .crcInit => 0x1
  | .crcB1 _ => 0x2
  | .crcB2 _ _ => 0x3
  | .crcB3 _ _ _ => 0x4
  | .crcB4 _ _ _ _ => 0x5
  | .typeLoad _ _ _ _ => 0x6
  | .chunkStart _ _ _ _ => 0x7
  | .crcCheck _ => 0x8
  | .clrErr => 0x9
  | .reservedA => 0xA
  | .reservedB => 0xB
  | .reservedC => 0xC
  | .reservedD => 0xD
  | .reservedE => 0xE
  | .reservedF => 0xF

/-- The operand word of each instruction, zero in its ignored bits (R77). -/
def dataOf : Instr → Word
  | .nop => 0
  | .crcInit => 0
  | .crcB1 b0 => packWord 0 0 0 b0
  | .crcB2 b0 b1 => packWord 0 0 b0 b1
  | .crcB3 b0 b1 b2 => packWord 0 b0 b1 b2
  | .crcB4 b0 b1 b2 b3 => packWord b0 b1 b2 b3
  | .typeLoad t0 t1 t2 t3 => packWord t0 t1 t2 t3
  | .chunkStart t0 t1 t2 t3 => packWord t0 t1 t2 t3
  | .crcCheck e => e
  | .clrErr => 0
  | .reservedA => 0
  | .reservedB => 0
  | .reservedC => 0
  | .reservedD => 0
  | .reservedE => 0
  | .reservedF => 0

/-- R77: the beat an assembler emits for an instruction. -/
def encode (i : Instr) : Beat := mkBeat (opcodeOf i) (dataOf i)

end Sys2Proof
end

