-- ==== Sys2Proof/Config.lean ====
section
/-! DEFINITION. What the spec leaves to an implementation, and the free values: constants without a body, so that no proof can
know a value of one. -/

namespace Sys2Proof

/-- Free: how many cycles more than one a beat of each opcode takes. `T_CMD` may differ between opcodes (R248). -/
opaque Config.extraCycles : Opcode → Nat

/-- `T_CMD` (R8): the cycles from a beat's acceptance to the block being ready for the next, at least 1. -/
def Config.tCmd (op : Opcode) : Nat := Config.extraCycles op + 1

/-- Free: `rd_data` at a read that is not valid (R245, U3), a new value for each draw and address. -/
opaque Config.freeRdData : Nat → ReadAddr → Word

/-- Free: `cmd_ready` before the first reset (R241). -/
opaque Config.freeCmdReady : Nat → Bool

/-- Free: CRC_RAW before the first reset (R241, U2). -/
opaque Config.freeCrcRaw : Nat → Word

/-- Free: COUNT before the first reset (R241, U2). -/
opaque Config.freeCount : Nat → Word

/-- Free: TYPE before the first reset (R241, U2). -/
opaque Config.freeType : Nat → Word

/-- Free: MATCH before the first reset (R241, U2). -/
opaque Config.freeMatch : Nat → Bool

/-- Free: CHECKED before the first reset (R241, U2). -/
opaque Config.freeChecked : Nat → Bool

/-- Free: LEN_OVF before the first reset (R241, U2). -/
opaque Config.freeLenOvf : Nat → Bool

/-- Free: ILLEGAL before the first reset (R241, U2). -/
opaque Config.freeIllegal : Nat → Bool

end Sys2Proof
end

