-- ==== Sys2Proof/Machine/State.lean ====
section
/-! DEFINITION. The state of the block and of its command port: the seven elements of R23, the hidden state of R32, and the host's
pending actions (R20, R22). -/

namespace Sys2Proof.Machine

/-- Where the block stands between reset and beats: what `cmd_ready` shows (R32, R240, R241, R245). -/
inductive Phase where
  /-- No reset edge since power-up: every element, `rd_data` and `cmd_ready` are unspecified (R241). -/
  | unreset
  /-- The last edge had `rst` = 1: `cmd_ready` is 0 (R240). -/
  | inReset
  /-- `cmd_ready` is 1 (R244). -/
  | ready
  /-- `i` was accepted and is executing: `cmd_ready` is 0, and rises at the edge after `left` more edges (R32, R245). -/
  | busy (i : Instr) (left : Nat)
  deriving DecidableEq, Repr

/-- One thing the outside does to the block's ports (R20, R21). -/
inductive HostEvent where
  /-- The host presents a beat, holds it until the accepting edge, and waits until `cmd_ready` is 1 again (R244, R248). -/
  | beat (b : Beat)
  /-- ONE rising edge of `clk` with these levels on `rst`, `cmd_valid` and, as one beat, `cmd_op` and `cmd_data` (R21). -/
  | edge (rst cmdValid : Bool) (b : Beat)
  /-- The host takes `rd_data` with this level on `rst` and this `rd_addr` (R21, R245), between two edges. -/
  | read (rst : Bool) (addr : ReadAddr)
  deriving DecidableEq, Repr

/-- The state. The derived read values CRC_OUT, FLAGS and STATUS hold no state of their own (R23). -/
structure State where
  /-- CRC_RAW (R24). -/
  crcRaw : Word
  /-- COUNT (R26). -/
  count : Word
  /-- TYPE (R27). -/
  typeCode : Word
  /-- MATCH (R23). -/
  matched : Bool
  /-- CHECKED (R23). -/
  checked : Bool
  /-- LEN_OVF (R23). -/
  lenOvf : Bool
  /-- ILLEGAL (R23). -/
  illegal : Bool
  /-- Whether a beat is still executing (R32), and where reset stands (R240, R241). -/
  phase : Phase
  /-- What the host does next, oldest first: the beats it issues in issue order (R22) among its other actions. -/
  host : List HostEvent
  /-- The value the host last took from `rd_data`; none before its first read. The host's observation, no state of the block. -/
  sampled : Option Word
  /-- How many free values have been drawn. The model's own field. -/
  draws : Nat
  deriving DecidableEq, Repr

/-- Why a step can stop with a fault. It has no constructor: the block raises no trap, every error is a status bit, and every
beat has a defined effect (R75, R200). -/
inductive Fault where
  deriving DecidableEq, Repr

/-- Why a step can be refused. -/
inductive Refusal where
  /-- Raised by an arm of exec that has no meaning yet, with the row's mnemonic. Safe: nothing is claimed of the instruction. No
  arm raises it in this model. -/
  | notModelled (mnemonic : String)
  deriving DecidableEq, Repr

/-- The block right after reset (R31, R240): `cmd_ready` is 1 (R241) and the host has done nothing yet. -/
def State.reset : State where
  crcRaw := 0xFFFFFFFF
  count := 0
  typeCode := 0
  matched := false
  checked := false
  lenOvf := false
  illegal := false
  phase := .ready
  host := []
  sampled := none
  draws := 0

end Sys2Proof.Machine
end

