-- ==== Sys2Proof/Machine/Operands.lean ====
section
/-! DEFINITION. Operand forms as byte sequences (R55, R73). The bytes themselves are taken out of the operand word once, in
Decode.lean. -/

namespace Sys2Proof.Machine

/-- The bytes of a word in wire order, most significant first (R54, R55). -/
def wireBytes (w : Word) : List Byte := [byteOf w 3, byteOf w 2, byteOf w 1, byteOf w 0]

/-- The bytes of the stream that an instruction carries, in stream order: those of the CRC_Bn forms (R57, R73). -/
def streamBytes : Instr → List Byte
  | .nop => []
  | .crcInit => []
  | .crcB1 b0 => [b0]
  | .crcB2 b0 b1 => [b0, b1]
  | .crcB3 b0 b1 b2 => [b0, b1, b2]
  | .crcB4 b0 b1 b2 b3 => [b0, b1, b2, b3]
  | .typeLoad _ _ _ _ => []
  | .chunkStart _ _ _ _ => []
  | .crcCheck _ => []
  | .clrErr => []
  | .reservedA => []
  | .reservedB => []
  | .reservedC => []
  | .reservedD => []
  | .reservedE => []
  | .reservedF => []

/-- Type byte `k` of a type code, in wire order (R27, R140). -/
def typeByte (t : Word) (k : Nat) : Byte := byteOf t (3 - k)

end Sys2Proof.Machine
end

