-- ==== Sys2Proof/Machine/Flags.lean ====
section
/-! DEFINITION. The read values FLAGS (R28, R140 to R152) and STATUS (R29), and the error indications they carry (R201 to R203). -/

namespace Sys2Proof.Machine

/-- R141: an ASCII uppercase letter. -/
def isUpper (b : Byte) : Bool := decide (0x41 ≤ b.toNat) && decide (b.toNat ≤ 0x5A)

/-- R141: an ASCII lowercase letter. -/
def isLower (b : Byte) : Bool := decide (0x61 ≤ b.toNat) && decide (b.toNat ≤ 0x7A)

/-- R141: an ASCII letter. -/
def isLetter (b : Byte) : Bool := isUpper b || isLower b

/-- R142: ANC_BIT. -/
def ancBit (t : Word) : Bool := t.getLsbD 29

/-- R142: PRIV_BIT. -/
def privBit (t : Word) : Bool := t.getLsbD 21

/-- R142: RSV_BIT. -/
def rsvBit (t : Word) : Bool := t.getLsbD 13

/-- R142: STC_BIT. -/
def stcBit (t : Word) : Bool := t.getLsbD 5

/-- R143: CRITICAL. -/
def critical (t : Word) : Bool := !t.getLsbD 29

/-- R144: PUBLIC. -/
def isPublic (t : Word) : Bool := !t.getLsbD 21

/-- R145: VALID. -/
def valid (t : Word) : Bool := !t.getLsbD 13

/-- R146: SAFE_TO_COPY. -/
def safeToCopy (t : Word) : Bool := t.getLsbD 5

/-- R147: ALPHAk. -/
def alpha (t : Word) (k : Nat) : Bool := isLetter (typeByte t k)

/-- R148: ALL_ALPHA. -/
def allAlpha (t : Word) : Bool := alpha t 0 && alpha t 1 && alpha t 2 && alpha t 3

/-- R149: a byte below 0x80. -/
def isAscii (b : Byte) : Bool := decide (b.toNat < 0x80)

/-- R149: ALL_ASCII. -/
def allAscii (t : Word) : Bool :=
  isAscii (typeByte t 0) && isAscii (typeByte t 1) && isAscii (typeByte t 2) && isAscii (typeByte t 3)

/-- The type construction errors of R150. -/
inductive TypeError where
  | notAscii
  | notAlphabetic
  deriving DecidableEq, Repr

/-- R150: which construction error a type code has; NotAscii wins. -/
def typeError (t : Word) : Option TypeError :=
  if allAscii t then
    if allAlpha t then none else some .notAlphabetic
  else some .notAscii

/-- R150: the code of TERR. -/
def terrCode : Option TypeError → BitVec 2
  | none => 0b00
  | some .notAscii => 0b01
  | some .notAlphabetic => 0b10

/-- Whether a construction error is the given one. -/
def isTypeError : Option TypeError → TypeError → Bool
  | none, _ => false
  | some .notAscii, .notAscii => true
  | some .notAscii, .notAlphabetic => false
  | some .notAlphabetic, .notAscii => false
  | some .notAlphabetic, .notAlphabetic => true

/-- R151: CHUNK_OK. -/
def chunkOk (t : Word) : Bool := allAlpha t && valid t

/-- A one-bit field. -/
def bit (b : Bool) : BitVec 1 := BitVec.ofBool b

/-- FLAGS of a type code, laid out as R28 says, bits 31:17 zero (R152). -/
def flagsOf (t : Word) : Word :=
  (0 : BitVec 15) ++ bit (chunkOk t) ++ terrCode (typeError t) ++ bit (allAscii t) ++ bit (allAlpha t) ++
  bit (alpha t 3) ++ bit (alpha t 2) ++ bit (alpha t 1) ++ bit (alpha t 0) ++
  bit (safeToCopy t) ++ bit (valid t) ++ bit (isPublic t) ++ bit (critical t) ++
  bit (stcBit t) ++ bit (rsvBit t) ++ bit (privBit t) ++ bit (ancBit t)

/-- STATUS.MISMATCH (R29). -/
def mismatch (s : State) : Bool := s.checked && !s.matched

/-- STATUS, laid out as R29 says, bits 31:5 zero. -/
def statusOf (s : State) : Word :=
  (0 : BitVec 27) ++ bit s.illegal ++ bit s.lenOvf ++ bit (mismatch s) ++ bit s.checked ++ bit s.matched

/-! ### Error indications. -/

/-- The block's error codes (R201). -/
inductive ErrorCode where
  | e1 | e2 | e3 | e4 | e5 | e6
  deriving DecidableEq, Repr

/-- R201: whether an error is indicated. -/
def indicated (s : State) : ErrorCode → Bool
  | .e1 => isTypeError (typeError s.typeCode) .notAscii
  | .e2 => isTypeError (typeError s.typeCode) .notAlphabetic
  | .e3 => !valid s.typeCode
  | .e4 => mismatch s
  | .e5 => s.lenOvf
  | .e6 => s.illegal

/-- R203: the order in which a host that reports one error takes the indications. -/
def reportOrder : List ErrorCode := [.e6, .e1, .e2, .e3, .e5, .e4]

/-- R203: the error a host reports, if any is indicated. -/
def reportedError (s : State) : Option ErrorCode := reportOrder.find? (indicated s)

/-- The acceptance policies a host may document (R153, U8). -/
inductive Policy where
  /-- Strict chunk parse. -/
  | strictParse
  /-- Lenient file reading: every byte a letter. -/
  | lenientLetters
  /-- Lenient file reading under the `fromBytes` reading: every byte ASCII. -/
  | lenientFromBytes
  /-- Authoring and encode. -/
  | authoring
  deriving DecidableEq, Repr

/-- R153: which type codes each policy accepts. -/
def Policy.accepts : Policy → Word → Bool
  | .strictParse, t => chunkOk t
  | .lenientLetters, t => allAlpha t
  | .lenientFromBytes, t => allAscii t
  | .authoring, t => chunkOk t

end Sys2Proof.Machine
end

