-- ==== Sys2Proof/Machine/Ops.lean ====
section
/-! DEFINITION. The operations the meanings share: the CRC (R101 to R103), the byte count (R104), the status bits, the read port
(R51 to R53), and reset (R240, R241). The block takes no exceptions: an error is a status bit written at the end of the beat that
causes it (R200, R204, R205), so that recording one, and clearing one, stand here in the place of an exception's entry and
return. -/

namespace Sys2Proof.Machine

/-! ### The CRC. -/

/-- The reflected generator polynomial (R6, R102). -/
def crcPoly : Word := 0xEDB88320

/-- The register before the first byte: `init` of R6. -/
def crcInitValue : Word := 0xFFFFFFFF

/-- `xorout` of R6. -/
def crcXorOut : Word := 0xFFFFFFFF

/-- One bit of R103's loop: the register shifts right, and the polynomial enters where a one left it (R102). -/
def crcBit (c : Word) : Word := if c.getLsbD 0 then (c >>> 1) ^^^ crcPoly else c >>> 1

/-- `n` turns of R103's loop. -/
def crcBits : Nat → Word → Word
  | 0, c => c
  | n + 1, c => crcBits n (crcBit c)

/-- `absorb(c, b)` of R103. -/
def absorb (c : Word) (b : Byte) : Word := crcBits 8 (c ^^^ b.zeroExtend 32)

/-- `CRC32_raw(c, s)` of R101. -/
def crc32Raw : Word → List Byte → Word
  | c, [] => c
  | c, b :: s => crc32Raw (absorb c b) s

/-- `CRC32(s)` of R101. -/
def crc32 (s : List Byte) : Word := crc32Raw crcInitValue s ^^^ crcXorOut

/-- CRC_OUT (R25). -/
def crcOut (s : State) : Word := s.crcRaw ^^^ crcXorOut

/-! ### COUNT, MATCH and CHECKED. -/

/-- R104's `total`: 33 bits. -/
def countTotal (count : Word) (n : Nat) : BitVec 33 := count.zeroExtend 33 + BitVec.ofNat 33 n

/-- R104: count `n` more bytes; LEN_OVF is set when the total does not fit, and never cleared here. -/
def countBytes (n : Nat) (s : State) : State :=
  { s with
    count := (countTotal s.count n).truncate 32
    lenOvf := s.lenOvf || decide (0xFFFFFFFF < (countTotal s.count n).toNat) }

/-- MATCH and CHECKED cleared, so that a stale result never reads as a match (R23, R116). -/
def clearCheck (s : State) : State := { s with matched := false, checked := false }

/-- What every CRC_Bn does with its bytes (R111 to R114). -/
def absorbBytes (bs : List Byte) (s : State) : State :=
  clearCheck (countBytes bs.length { s with crcRaw := crc32Raw s.crcRaw bs })

/-- Begin a computation with the register at `c`: COUNT, LEN_OVF, MATCH and CHECKED cleared (R110, R115). -/
def startCrc (c : Word) (s : State) : State := clearCheck { s with crcRaw := c, count := 0, lenOvf := false }

/-- Record the illegal-command error E6 (R182, R200, R201). -/
def recordIllegal (s : State) : State := { s with illegal := true }

/-- Clear the illegal-command record (R181). -/
def clearIllegal (s : State) : State := { s with illegal := false }

/-! ### The read port. -/

/-- The register map of R52; offsets 6 and 7 read as zero (R53). -/
def readReg (s : State) (addr : ReadAddr) : Word :=
  match addr.getLsbD 2, addr.getLsbD 1, addr.getLsbD 0 with
  | false, false, false => s.crcRaw
  | false, false, true => crcOut s
  | false, true, false => s.count
  | false, true, true => s.typeCode
  | true, false, false => flagsOf s.typeCode
  | true, false, true => statusOf s
  | true, true, false => 0
  | true, true, true => 0

/-- `cmd_ready` with this level on `rst` (R21, R240, R241, R245). -/
def cmdReady (s : State) (rst : Bool) : Bool :=
  match s.phase with
  | .unreset => Config.freeCmdReady s.draws
  | .inReset => false
  | .ready => !rst
  | .busy _ _ => false

/-- R245: a read is valid when `cmd_ready` is 1 and `rst` is 0; and never before the first reset (R241). -/
def readValid (s : State) (rst : Bool) : Bool := decide (s.phase = .ready) && !rst

/-- `rd_data` (R21): the selected register at a valid read, else a free value (R241, R245, U3). -/
def rdData (s : State) (rst : Bool) (addr : ReadAddr) : Word :=
  if readValid s rst then readReg s addr else Config.freeRdData s.draws addr

/-- The host takes `rd_data`. No element of the block changes (R30, R59); a read that is not valid uses one draw (U3). -/
def takeRead (rst : Bool) (addr : ReadAddr) (s : State) : State :=
  { s with sampled := some (rdData s rst addr), draws := if readValid s rst then s.draws else s.draws + 1 }

/-! ### Reset and power-up. -/

/-- R31, R240: every element at its reset value; the beat in progress is abandoned. -/
def resetEdge (s : State) : State :=
  { s with
    crcRaw := 0xFFFFFFFF, count := 0, typeCode := 0
    matched := false, checked := false, lenOvf := false, illegal := false
    phase := .inReset }

/-- R241, U2: every element a free value. -/
def drawElements (s : State) : State :=
  { s with
    crcRaw := Config.freeCrcRaw s.draws, count := Config.freeCount s.draws, typeCode := Config.freeType s.draws
    matched := Config.freeMatch s.draws, checked := Config.freeChecked s.draws
    lenOvf := Config.freeLenOvf s.draws, illegal := Config.freeIllegal s.draws
    draws := s.draws + 1 }

/-- The block after power-up and before its first reset (R241). -/
def powerUp : State := drawElements { State.reset with phase := .unreset }

/-- Go on from a next state. -/
def andThen (o : Host.Outcome State Fault Refusal) (f : State → Host.Outcome State Fault Refusal) :
    Host.Outcome State Fault Refusal :=
  match o with
  | .next s => f s
  | .fault r => .fault r
  | .refused r => .refused r

end Sys2Proof.Machine
end

