-- ==== Sys2Proof/Machine/Control.lean ====
section
/-! DEFINITION. NOP, CLR_ERR and the reserved opcodes (R180 to R182). -/

namespace Sys2Proof.Machine

/-- NOP (R180). -/
def execNop (s : State) : Host.Outcome State Fault Refusal := .next s

/-- CLR_ERR (R181): LEN_OVF stays. -/
def execClrErr (s : State) : Host.Outcome State Fault Refusal := .next (clearIllegal s)

/-- Opcode 0xA (R182). -/
def execReservedA (s : State) : Host.Outcome State Fault Refusal := .next (recordIllegal s)

/-- Opcode 0xB (R182). -/
def execReservedB (s : State) : Host.Outcome State Fault Refusal := .next (recordIllegal s)

/-- Opcode 0xC (R182). -/
def execReservedC (s : State) : Host.Outcome State Fault Refusal := .next (recordIllegal s)

/-- Opcode 0xD (R182). -/
def execReservedD (s : State) : Host.Outcome State Fault Refusal := .next (recordIllegal s)

/-- Opcode 0xE (R182). -/
def execReservedE (s : State) : Host.Outcome State Fault Refusal := .next (recordIllegal s)

/-- Opcode 0xF (R182). -/
def execReservedF (s : State) : Host.Outcome State Fault Refusal := .next (recordIllegal s)

end Sys2Proof.Machine
end

