-- ==== Sys2Proof/Machine/Crc.lean ====
section
/-! DEFINITION. The CRC-32/ISO-HDLC commands (R110 to R116). -/

namespace Sys2Proof.Machine

/-- CRC_INIT (R110). -/
def execCrcInit (s : State) : Host.Outcome State Fault Refusal := .next (startCrc crcInitValue s)

/-- CRC_B1 (R111). -/
def execCrcB1 (b0 : Byte) (s : State) : Host.Outcome State Fault Refusal := .next (absorbBytes [b0] s)

/-- CRC_B2 (R112). -/
def execCrcB2 (b0 b1 : Byte) (s : State) : Host.Outcome State Fault Refusal := .next (absorbBytes [b0, b1] s)

/-- CRC_B3 (R113). -/
def execCrcB3 (b0 b1 b2 : Byte) (s : State) : Host.Outcome State Fault Refusal := .next (absorbBytes [b0, b1, b2] s)

/-- CRC_B4 (R114). -/
def execCrcB4 (b0 b1 b2 b3 : Byte) (s : State) : Host.Outcome State Fault Refusal := .next (absorbBytes [b0, b1, b2, b3] s)

/-- CHUNK_START (R115): the type bytes are absorbed and not counted (R26). -/
def execChunkStart (t0 t1 t2 t3 : Byte) (s : State) : Host.Outcome State Fault Refusal :=
  .next { startCrc (crc32Raw crcInitValue [t0, t1, t2, t3]) s with typeCode := packWord t0 t1 t2 t3 }

/-- CRC_CHECK (R116). -/
def execCrcCheck (expected : Word) (s : State) : Host.Outcome State Fault Refusal :=
  .next { s with checked := true, matched := decide (crcOut s = expected) }

end Sys2Proof.Machine
end

