-- ==== Sys2Proof/Machine/TypeFlags.lean ====
section
/-! DEFINITION. The type-code command (R155). FLAGS follows TYPE by itself (R28). -/

namespace Sys2Proof.Machine

/-- TYPE_LOAD (R155). -/
def execTypeLoad (t0 t1 t2 t3 : Byte) (s : State) : Host.Outcome State Fault Refusal :=
  .next { s with typeCode := packWord t0 t1 t2 t3 }

end Sys2Proof.Machine
end

