-- ==== Sys2Proof/Machine/Dispatch.lean ====
section
/-! DEFINITION. One arm per row of the opcode table (R72). -/

namespace Sys2Proof.Machine

/-- The effect of one accepted beat (R72). -/
def exec (i : Instr) (s : State) : Host.Outcome State Fault Refusal :=
  match i with
  | .nop => Sys2Proof.Machine.execNop s
  | .crcInit => Sys2Proof.Machine.execCrcInit s
  | .crcB1 b0 => Sys2Proof.Machine.execCrcB1 b0 s
  | .crcB2 b0 b1 => Sys2Proof.Machine.execCrcB2 b0 b1 s
  | .crcB3 b0 b1 b2 => Sys2Proof.Machine.execCrcB3 b0 b1 b2 s
  | .crcB4 b0 b1 b2 b3 => Sys2Proof.Machine.execCrcB4 b0 b1 b2 b3 s
  | .typeLoad t0 t1 t2 t3 => Sys2Proof.Machine.execTypeLoad t0 t1 t2 t3 s
  | .chunkStart t0 t1 t2 t3 => Sys2Proof.Machine.execChunkStart t0 t1 t2 t3 s
  | .crcCheck expected => Sys2Proof.Machine.execCrcCheck expected s
  | .clrErr => Sys2Proof.Machine.execClrErr s
  | .reservedA => Sys2Proof.Machine.execReservedA s
  | .reservedB => Sys2Proof.Machine.execReservedB s
  | .reservedC => Sys2Proof.Machine.execReservedC s
  | .reservedD => Sys2Proof.Machine.execReservedD s
  | .reservedE => Sys2Proof.Machine.execReservedE s
  | .reservedF => Sys2Proof.Machine.execReservedF s

end Sys2Proof.Machine
end

