-- ==== Sys2Proof/Machine/Ports.lean ====
section
/-! DEFINITION. The command port: the handshake and the busy window (R244, R245), reset (R240, R241), and where the next beat comes
from (R22). -/

namespace Sys2Proof.Machine

/-- The accepting edge of an instruction: with `T_CMD` = 1 it takes effect at once, else the busy window begins (R56, R245). -/
def acceptBeat (i : Instr) (s : State) : Host.Outcome State Fault Refusal :=
  match Config.extraCycles (opcodeOf i) with
  | 0 => exec i s
  | n + 1 => .next { s with phase := .busy i n }

/-- One edge of the busy window: at its last edge the writes take effect together and `cmd_ready` rises (R56, R245). -/
def busyEdge (i : Instr) (left : Nat) (s : State) : Host.Outcome State Fault Refusal :=
  match left with
  | 0 => exec i { s with phase := .ready }
  | n + 1 => .next { s with phase := .busy i n }

/-- One rising edge of `clk` with these levels on the input ports (R21, R240, R241, R244, R245). -/
def clockEdge (rst cmdValid : Bool) (b : Beat) (s : State) : Host.Outcome State Fault Refusal :=
  if rst then .next (resetEdge s)
  else
    match s.phase with
    | .unreset => .next (drawElements s)
    | .inReset => .next { s with phase := .ready }
    | .ready => if cmdValid then acceptBeat (decode b) s else .next s
    | .busy i left => busyEdge i left s

/-- The host holds a beat until it is accepted and waits until `cmd_ready` is 1 again: one beat per step and no time (R244, R248).
A beat still executing completes first (R62). Before the first reset every element stays a free value, whether or not the beat
is accepted (R241). -/
def issueBeat (b : Beat) (s : State) : Host.Outcome State Fault Refusal :=
  match s.phase with
  | .unreset => .next (drawElements s)
  | .inReset => exec (decode b) { s with phase := .ready }
  | .ready => exec (decode b) s
  | .busy i _ => andThen (exec i { s with phase := .ready }) (exec (decode b))

/-- The host's next action. A host that does nothing lets one idle edge pass (R225). -/
def takeHostEvent (s : State) : Host.Outcome State Fault Refusal :=
  match s.host with
  | [] => clockEdge false false 0 s
  | .beat b :: rest => issueBeat b { s with host := rest }
  | .edge rst cmdValid b :: rest => clockEdge rst cmdValid b { s with host := rest }
  | .read rst addr :: rest => .next (takeRead rst addr { s with host := rest })

/-- The beat as the next thing the host issues, to a block that is ready for it. -/
def offerBeat (b : Beat) (s : State) : State := { s with phase := .ready, host := .beat b :: s.host }

/-- The host holds a program: the finite list of beats it issues, in issue order (R22). -/
def loadProgram (p : List Beat) (s : State) : State := { s with host := p.map .beat }

/-- A sequence of instructions, each completing before the next is accepted (R62). -/
def execAll : List Instr → State → Host.Outcome State Fault Refusal
  | [], s => .next s
  | i :: is, s => andThen (exec i s) (execAll is)

end Sys2Proof.Machine
end

