-- ==== Sys2Proof/Machine/Step.lean ====
section
/-! DEFINITION. One step: the host's next action. -/

namespace Sys2Proof.Machine

/-- One step (R20, R248). -/
def step (s : State) : Host.Outcome State Fault Refusal := takeHostEvent s

/-- The beat `w` as the next one the host issues: the block fetches nothing (R22), so that the host's queue is where a beat is put.
A beat is one word of 36 bits, whatever number of whole bytes `nbits` counts it as. -/
def State.withFetchWord (s : State) (_nbits w : Nat) : State := offerBeat (BitVec.ofNat 36 w) s

end Sys2Proof.Machine
end

