-- ==== Sys2Proof/Machine/Chunk.lean ====
section
/-! DEFINITION. What a host does with the block to build and to verify a chunk (R54, R78, R117, R118). -/

namespace Sys2Proof.Machine

/-- The canonical grouping of a byte stream into CRC_Bn instructions (R78, CRC_STR and CRC_HEX). -/
def payloadInstrs : List Byte → List Instr
  | b0 :: b1 :: b2 :: b3 :: rest => .crcB4 b0 b1 b2 b3 :: payloadInstrs rest
  | [b0, b1, b2] => [.crcB3 b0 b1 b2]
  | [b0, b1] => [.crcB2 b0 b1]
  | [b0] => [.crcB1 b0]
  | [] => []

/-- CHUNK_START with the type code `t` (R115). -/
def chunkStartOf (t : Word) : Instr := .chunkStart (byteOf t 3) (byteOf t 2) (byteOf t 1) (byteOf t 0)

/-- R117: start a chunk of type `t`, then the CRC_Bn that carry its payload, in any grouping. -/
def chunkInstrs (t : Word) (payload : List Instr) : List Instr := chunkStartOf t :: payload

/-- R118: the instructions that verify a stored checksum. -/
def verifyInstrs (t : Word) (payload : List Instr) (stored : Word) : List Instr := chunkInstrs t payload ++ [.crcCheck stored]

/-- RESTART (R78). -/
def restartInstrs : List Instr := [.crcInit, .clrErr]

/-- The chunk on the wire (R54): length, type, payload and checksum, big-endian. -/
def chunkWire (length type : Word) (p : List Byte) (checksum : Word) : List Byte :=
  wireBytes length ++ wireBytes type ++ p ++ wireBytes checksum

/-- R117: the chunk a host forms from the block's results; none when LEN_OVF is 1, for the chunk must not be emitted. -/
def formChunk (p : List Byte) (s : State) : Option (List Byte) :=
  if s.lenOvf then none else some (chunkWire s.count s.typeCode p (crcOut s))

end Sys2Proof.Machine
end

