-- ==== Sys2Proof/Machine/Assembler.lean ====
section
/-! DEFINITION. The assembler (R76 to R78): statements to beats, and lines of text to statements. -/

namespace Sys2Proof.Machine

/-- Why a line is an assembly error. -/
inductive AsmError where
  /-- The first word of the line names no command, directive or pseudo-instruction. -/
  | unknownMnemonic
  /-- The rest of the line is no operand of any form. -/
  | malformedOperand
  /-- A command without its operand. -/
  | operandMissing
  /-- An operand where none is taken. -/
  | operandNotTaken
  /-- A number that does not fit the operand form (R76). -/
  | numberTooWide
  /-- A string of the wrong length (R76). -/
  | wrongStringLength
  /-- A string with a character outside 0x00..0x7F (R76). -/
  | notAsciiText
  /-- A string where only a number is taken (R76, the cmp32 form). -/
  | stringNotTaken
  deriving DecidableEq, Repr

/-! ### Statements to beats. -/

/-- The number a quoted string stands for: the first character most significant (R76). -/
def textNumber (cs : List Char) : Nat := cs.foldl (fun v c => 256 * v + c.toNat) 0

/-- The bytes of a string. -/
def textBytes (cs : List Char) : List Byte := cs.map fun c => BitVec.ofNat 8 c.toNat

/-- A number that must be below `bound`. -/
def asmNumber (bound v : Nat) : Except AsmError Word :=
  if v < bound then .ok (BitVec.ofNat 32 v) else .error .numberTooWide

/-- A string that must have `n` ASCII characters. -/
def asmText (n : Nat) (cs : List Char) : Except AsmError Word :=
  if cs.length = n then
    if asciiText cs then .ok (BitVec.ofNat 32 (textNumber cs)) else .error .notAsciiText
  else .error .wrongStringLength

/-- The operand word of each operand form (R76, R77). -/
def asmOperand : OperandForm → Operand → Except AsmError Word
  | .none, .absent => .ok 0
  | .none, .number _ => .error .operandNotTaken
  | .none, .text _ => .error .operandNotTaken
  | .bytes _, .absent => .error .operandMissing
  | .bytes n, .number v => asmNumber (2 ^ (8 * n)) v
  | .bytes n, .text cs => asmText n cs
  | .type4, .absent => .error .operandMissing
  | .type4, .number v => asmNumber (2 ^ 32) v
  | .type4, .text cs => asmText 4 cs
  | .cmp32, .absent => .error .operandMissing
  | .cmp32, .number v => asmNumber (2 ^ 32) v
  | .cmp32, .text _ => .error .stringNotTaken

/-- The opcode of each mnemonic (R72). -/
def mnemonicOpcode : Mnemonic → Opcode
  | .nop => 0x0
  | .crcInit => 0x1
  | .crcB1 => 0x2
  | .crcB2 => 0x3
  | .crcB3 => 0x4
  | .crcB4 => 0x5
  | .typeLoad => 0x6
  | .chunkStart => 0x7
  | .crcCheck => 0x8
  | .clrErr => 0x9

/-- A command is encoded as its opcode and its operand word (R77). -/
def asmCommand (m : Mnemonic) (o : Operand) : Except AsmError Beat :=
  match asmOperand m.form o with
  | .ok data => .ok (mkBeat (mnemonicOpcode m) data)
  | .error e => .error e

/-- The beats of a statement (R77, R78). -/
def assemble : Stmt → Except AsmError (List Beat)
  | .command m o =>
    match asmCommand m o with
    | .ok b => .ok [b]
    | .error e => .error e
  | .beat v => if v < 2 ^ 36 then .ok [BitVec.ofNat 36 v] else .error .numberTooWide
  | .crcStr s => if asciiText s then .ok ((payloadInstrs (textBytes s)).map encode) else .error .notAsciiText
  | .crcHex bs =>
    if bs.all fun b => decide (b < 256) then .ok ((payloadInstrs (bs.map (BitVec.ofNat 8))).map encode)
    else .error .numberTooWide
  | .chunkCrc t s =>
    match asmCommand .chunkStart (.text t) with
    | .ok b => if asciiText s then .ok (b :: (payloadInstrs (textBytes s)).map encode) else .error .notAsciiText
    | .error e => .error e
  | .restart => .ok (restartInstrs.map encode)

/-! ### Lines of text to statements. -/

/-- White space inside a line. -/
def isBlank (c : Char) : Bool := c == ' ' || c == '\t' || c == '\r'

/-- R76: a `;` outside a string starts a comment. -/
def stripComment : Bool → List Char → List Char
  | _, [] => []
  | inText, c :: cs =>
    if c == '"' then c :: stripComment (!inText) cs
    else if c == ';' && !inText then []
    else c :: stripComment inText cs

/-- White space at the front taken off. -/
def skipBlanks (cs : List Char) : List Char := cs.dropWhile isBlank

/-- White space at both ends taken off. -/
def trimBlanks (cs : List Char) : List Char := (skipBlanks (skipBlanks cs).reverse).reverse

/-- The words of a line, between white space. -/
def wordsOf : List Char → List Char → List (List Char)
  | [], word => if word.isEmpty then [] else [word.reverse]
  | c :: cs, word =>
    if isBlank c then (if word.isEmpty then wordsOf cs [] else word.reverse :: wordsOf cs [])
    else wordsOf cs (c :: word)

/-- The value of a hexadecimal digit of either case. -/
def digitValue (c : Char) : Option Nat :=
  if '0' ≤ c ∧ c ≤ '9' then some (c.toNat - 0x30)
  else if 'a' ≤ c ∧ c ≤ 'f' then some (c.toNat - 0x61 + 10)
  else if 'A' ≤ c ∧ c ≤ 'F' then some (c.toNat - 0x41 + 10)
  else none

/-- Digits in a base, onto what stands already. -/
def digitsValue (base : Nat) : Nat → List Char → Option Nat
  | v, [] => some v
  | v, c :: cs =>
    match digitValue c with
    | some d => if d < base then digitsValue base (base * v + d) cs else none
    | none => none

/-- One digit or more, in a base. -/
def parseDigits (base : Nat) (cs : List Char) : Option Nat := if cs.isEmpty then none else digitsValue base 0 cs

/-- R76: a number, decimal or `0x` hexadecimal. -/
def parseNumber : List Char → Option Nat
  | '0' :: 'x' :: cs => parseDigits 16 cs
  | cs => parseDigits 10 cs

/-- R78, CRC_HEX: a byte as a hexadecimal number, with or without `0x`. -/
def parseHexByte : List Char → Option Nat
  | '0' :: 'x' :: cs => parseDigits 16 cs
  | cs => parseDigits 16 cs

/-- The numbers of CRC_HEX. -/
def parseHexBytes : List (List Char) → Option (List Nat)
  | [] => some []
  | w :: ws =>
    match parseHexByte w, parseHexBytes ws with
    | some b, some bs => some (b :: bs)
    | _, _ => none

/-- R77: the number of `.beat 0xO_DDDDDDDD`, one opcode digit and eight data digits. -/
def parseBeatNumber : List Char → Option Nat
  | '0' :: 'x' :: o :: '_' :: ds => if ds.length = 8 then digitsValue 16 0 (o :: ds) else none
  | _ => none

/-- A quoted string at the front, and what follows it. -/
def parseText : List Char → Option (List Char × List Char)
  | '"' :: cs =>
    match cs.dropWhile (fun c => c != '"') with
    | _ :: rest => some (cs.takeWhile (fun c => c != '"'), skipBlanks rest)
    | [] => none
  | _ => none

/-- R76: the operand of a command. -/
def parseOperand (cs : List Char) : Option Operand :=
  match cs with
  | [] => some .absent
  | _ :: _ =>
    match parseText cs with
    | some (t, []) => some (.text t)
    | some (_, _ :: _) => none
    | none => (parseNumber cs).map .number

/-- The mnemonics as R72 spells them. -/
def mnemonicNames : List (String × Mnemonic) :=
  [("NOP", .nop), ("CRC_INIT", .crcInit), ("CRC_B1", .crcB1), ("CRC_B2", .crcB2), ("CRC_B3", .crcB3), ("CRC_B4", .crcB4),
   ("TYPE_LOAD", .typeLoad), ("CHUNK_START", .chunkStart), ("CRC_CHECK", .crcCheck), ("CLR_ERR", .clrErr)]

/-- The mnemonic a word names. -/
def parseMnemonic (w : List Char) : Option Mnemonic := (mnemonicNames.find? fun p => p.1.toList == w).map (·.2)

/-- A statement where one was read, else a malformed operand. -/
def orMalformed (o : Option Stmt) : Except AsmError (Option Stmt) :=
  match o with
  | some st => .ok (some st)
  | none => .error .malformedOperand

/-- R78: CHUNK_CRC's two strings with a comma between them. -/
def parseChunkCrc (cs : List Char) : Option Stmt :=
  match parseText cs with
  | some (t, ',' :: rest) =>
    match parseText (skipBlanks rest) with
    | some (s, []) => some (.chunkCrc t s)
    | _ => none
  | _ => none

/-- R78: CRC_STR's one string. -/
def parseCrcStr (cs : List Char) : Option Stmt :=
  match parseText cs with
  | some (s, []) => some (.crcStr s)
  | _ => none

/-- The statement of a line from its first word and the rest. -/
def parseStmt (w rest : List Char) : Except AsmError (Option Stmt) :=
  if w == ".beat".toList then orMalformed ((parseBeatNumber rest).map .beat)
  else if w == "CRC_STR".toList then orMalformed (parseCrcStr rest)
  else if w == "CRC_HEX".toList then orMalformed ((parseHexBytes (wordsOf rest [])).map .crcHex)
  else if w == "CHUNK_CRC".toList then orMalformed (parseChunkCrc rest)
  else if w == "RESTART".toList then
    if rest.isEmpty then .ok (some .restart) else .error .operandNotTaken
  else
    match parseMnemonic w with
    | some m => orMalformed ((parseOperand rest).map (.command m))
    | none => .error .unknownMnemonic

/-- R76: one line, `MNEMONIC [operand]` and a comment; none for a line that holds no command. -/
def parseLine (line : List Char) : Except AsmError (Option Stmt) :=
  match trimBlanks (stripComment false line) with
  | [] => .ok none
  | c :: cs => parseStmt ((c :: cs).takeWhile (fun c => !isBlank c)) (skipBlanks ((c :: cs).dropWhile (fun c => !isBlank c)))

/-- The beats of one line. -/
def assembleLine (line : List Char) : Except AsmError (List Beat) :=
  match parseLine line with
  | .ok (some st) => assemble st
  | .ok none => .ok []
  | .error e => .error e

/-- The lines of a text. -/
def linesOf : List Char → List Char → List (List Char)
  | [], line => [line.reverse]
  | c :: cs, line => if c == '\n' then line.reverse :: linesOf cs [] else linesOf cs (c :: line)

/-- The beats of a list of lines, in order; the first error stops it. -/
def assembleLines : List (List Char) → Except AsmError (List Beat)
  | [] => .ok []
  | l :: ls =>
    match assembleLine l, assembleLines ls with
    | .ok bs, .ok rest => .ok (bs ++ rest)
    | .ok _, .error e => .error e
    | .error e, _ => .error e

/-- The program of a text (R22, R76): the beats of its lines, in order. -/
def assembleText (text : String) : Except AsmError (List Beat) := assembleLines (linesOf text.toList [])

end Sys2Proof.Machine
end

