-- ==== Sys2Proof/Machine/CrcForms.lean ====
section
/-! DEFINITION. Other ways to compute the CRC that R108 allows an implementation, and the normal form of R6 and R102. The machine uses
none of them: they are what it is compared with. -/

namespace Sys2Proof.Machine

/-- One entry of a byte-wide lookup table (R108). -/
def crcTable (k : Byte) : Word := crcBits 8 (k.zeroExtend 32)

/-- `absorb` through the lookup table (R108). -/
def absorbByTable (c : Word) (b : Byte) : Word := (c >>> 8) ^^^ crcTable (byteOf c 0 ^^^ b)

/-- Four bytes in one pass of 32 bits (R108): the first byte enters at the low end of the register. -/
def absorbFour (c : Word) (b0 b1 b2 b3 : Byte) : Word := crcBits 32 (c ^^^ packWord b3 b2 b1 b0)

/-- The generator polynomial in normal form (R6, R102). -/
def crcPolyNormal : Word := 0x04C11DB7

/-- `n` turns of the normal form: the register shifts left. -/
def crcBitsNormal : Nat → Word → Word
  | 0, c => c
  | n + 1, c => crcBitsNormal n (if c.getLsbD 31 then (c <<< 1) ^^^ crcPolyNormal else c <<< 1)

/-- A byte absorbed in normal form, most significant bit first. -/
def absorbNormal (c : Word) (b : Byte) : Word := crcBitsNormal 8 (c ^^^ (b.zeroExtend 32 <<< 24))

end Sys2Proof.Machine
end

