-- ==== Sys2Proof/Safety.lean ====
section
/-! DEFINITION. What counts as safe: a step that completes, what a host may rely on, and the invariant of the block. -/

namespace Sys2Proof.Machine

/-- The step completes: no fault and no refusal (R200). -/
def Completes (s : State) : Prop := ∃ t, step s = .next t

/-- `k` steps, stopping at the first fault or refusal. -/
def runSteps : Nat → State → Host.Outcome State Fault Refusal
  | 0, s => .next s
  | k + 1, s => andThen (step s) (runSteps k)

/-- Every element of R23 is as in `t`. -/
abbrev SameElements (s t : State) : Prop :=
  s.crcRaw = t.crcRaw ∧ s.count = t.count ∧ s.typeCode = t.typeCode ∧ s.matched = t.matched ∧
  s.checked = t.checked ∧ s.lenOvf = t.lenOvf ∧ s.illegal = t.illegal

/-- An instruction that absorbs stream bytes: CRC_B1 to CRC_B4 (R26). -/
abbrev IsCrcBytes (i : Instr) : Prop := 0x2 ≤ (opcodeOf i).toNat ∧ (opcodeOf i).toNat ≤ 0x5

/-- The instruction has a reserved opcode (R75). -/
abbrev IsReserved (i : Instr) : Prop := 0xA ≤ (opcodeOf i).toNat

/-- The beat bits that each opcode uses: the opcode and the operand bits of its form (R73, R74). -/
def usedBits (op : Opcode) : Beat :=
  if op = 0x2 then 0xF000000FF
  else if op = 0x3 then 0xF0000FFFF
  else if op = 0x4 then 0xF00FFFFFF
  else if 0x5 ≤ op.toNat ∧ op.toNat ≤ 0x8 then 0xFFFFFFFFF
  else 0xF00000000

/-- Rising edges with `rst` = 0 and these levels on `cmd_valid` and the beat ports. -/
def edges (levels : List (Bool × Beat)) : List HostEvent := levels.map fun p => .edge false p.1 p.2

/-- The instruction does not start a new computation (R106). -/
abbrev KeepsChunk (i : Instr) : Prop := opcodeOf i ≠ 0x1 ∧ opcodeOf i ≠ 0x7

/-- The bytes that a sequence of instructions absorbs, in stream order (R105). -/
def streamOf (is : List Instr) : List Byte := is.flatMap streamBytes

/-- The instructions are CRC_Bn and carry exactly these bytes, in any grouping (R58, R117). -/
abbrev CarriesStream (is : List Instr) (bs : List Byte) : Prop := (∀ i ∈ is, IsCrcBytes i) ∧ streamOf is = bs

/-- The beats are R78's canonical grouping of these bytes: beat `k` is a CRC_Bn with the bytes from `4 k` on, four or the last few,
and with zeros in its ignored bits. -/
abbrev EmitsStream (p : List Beat) (bs : List Byte) : Prop :=
  p.length = (bs.length + 3) / 4 ∧
  ∀ k b, p[k]? = some b → IsCrcBytes (decode b) ∧ streamBytes (decode b) = (bs.drop (4 * k)).take 4 ∧ encode (decode b) = b

/-- What every step keeps: after the first reset edge MATCH is 1 only with CHECKED (R23, R116), and while reset lasts every element
has its reset value (R240). -/
abbrev Inv (s : State) : Prop :=
  (s.phase ≠ .unreset → s.matched = true → s.checked = true) ∧
  (s.phase = .inReset → SameElements s State.reset)

end Sys2Proof.Machine
end

