-- ==== Sys2Proof/Certificates/Slice0/Obligations.lean ====
section
/-! DEFINITION. What is to be proved of the model. -/

open Sys2Proof Sys2Proof.Machine

/-! ### Reset (R31, R240, R241) -/

/-- R31: the value of every element after reset, the derived read values there, and that CRC_INIT applied to a TYPE of zero with
ILLEGAL clear gives the same elements. -/
def Obligations.ResetStateHasTheSpecifiedValues : Prop :=
  State.reset.crcRaw = 0xFFFFFFFF ∧ State.reset.count = 0 ∧ State.reset.typeCode = 0 ∧
  State.reset.matched = false ∧ State.reset.checked = false ∧ State.reset.lenOvf = false ∧ State.reset.illegal = false ∧
  crcOut State.reset = 0 ∧ flagsOf State.reset.typeCode = 0x0000A070 ∧ statusOf State.reset = 0 ∧
  mismatch State.reset = false ∧
  ∀ s : State, s.typeCode = 0 → s.illegal = false → ∃ t, exec .crcInit s = .next t ∧ SameElements t State.reset

/-- R240: an edge with `rst` = 1, whatever else the ports show and wherever the block stands (a beat in progress too), loads every
element and accepts no beat; and `cmd_ready` is 0 while `rst` is 1, in every phase but before the first reset. There R241 leaves
`cmd_ready` unspecified, and that R241 holds there over R240 is the model's inference (log entry 6). -/
def Obligations.ResetEdgeLoadsEveryElement : Prop :=
  (∀ (s : State) (v : Bool) (b : Beat) (rest : List HostEvent), s.host = .edge true v b :: rest →
    ∃ t, step s = .next t ∧ SameElements t State.reset ∧ t.phase = .inReset ∧ t.host = rest ∧
      t.sampled = s.sampled ∧ t.draws = s.draws ∧ cmdReady t true = false) ∧
  ∀ s : State, s.phase ≠ .unreset → cmdReady s true = false

/-- R241: the first edge with `rst` = 0 after reset leaves every element at its reset value and raises `cmd_ready`. That the beat
offered at that edge is not accepted is the model's inference (log entry 5). -/
def Obligations.ReleaseFromResetGivesAReadyBlock : Prop :=
  ∀ (s : State) (v : Bool) (b : Beat) (rest : List HostEvent),
    s.phase = .inReset → SameElements s State.reset → s.host = .edge false v b :: rest →
    ∃ t, step s = .next t ∧ SameElements t State.reset ∧ t.phase = .ready ∧ cmdReady t false = true ∧ t.host = rest

/-- R241, U2: before the first reset every element is a free value at each edge without `rst`, whatever the host offers, and so is
`cmd_ready`. That each edge, and each issued beat, draws the values anew is the model's choice (log entry 4); that `cmd_ready` is
free with `rst` at 1 too, where R240 says 0, is the model's inference (log entry 6); and that an empty queue is an edge is the
model's choice (log entry 9). -/
def Obligations.ElementsAreFreeBeforeTheFirstReset : Prop :=
  ∀ (s : State) (rest : List HostEvent), s.phase = .unreset →
    (s.host = [] ∧ rest = [] ∨ (∃ b, s.host = .beat b :: rest) ∨ ∃ v b, s.host = .edge false v b :: rest) →
    step s = .next { s with
      crcRaw := Config.freeCrcRaw s.draws, count := Config.freeCount s.draws, typeCode := Config.freeType s.draws
      matched := Config.freeMatch s.draws, checked := Config.freeChecked s.draws, lenOvf := Config.freeLenOvf s.draws
      illegal := Config.freeIllegal s.draws, draws := s.draws + 1, host := rest } ∧
    ∀ r, cmdReady s r = Config.freeCmdReady s.draws

/-! ### The command port (R56, R62, R244, R245) -/

/-- A step whose next host action is a beat runs the decoded instruction, with the beat taken off the host's queue: at a ready block
it is exec of it; at a block that still executes a beat, that beat completes first (R62); and a beat held through the release of
reset runs from the reset state. That such a step is whole, from the presenting of the beat on, is the model's inference (log
entry 2), and so is that the releasing edge itself accepts no beat (log entry 5). -/
def Obligations.StepRunsTheDecodedInstruction : Prop :=
  ∀ (s : State) (b : Beat) (rest : List HostEvent), s.host = .beat b :: rest →
    (s.phase = .ready → step s = exec (decode b) { s with host := rest }) ∧
    (∀ i left, s.phase = .busy i left →
      ∃ u, exec i { s with phase := .ready, host := rest } = .next u ∧ step s = exec (decode b) u) ∧
    (s.phase = .inReset → step s = exec (decode b) { s with phase := .ready, host := rest })

/-- R244: an edge accepts a beat only where `cmd_valid`, `cmd_ready` are 1 and `rst` is 0. At a ready block an edge without
`cmd_valid` changes nothing, whatever beat the ports show; an edge with it accepts exactly the beat that the ports show at that
edge; while a beat executes `cmd_valid` and the beat ports change nothing; and an edge with `rst` only resets. A host with nothing
to do lets one idle edge pass, the model's choice (log entry 9): it changes nothing at a ready block (R225), brings a busy window
one edge nearer to its end, and ends reset. That the window is `T_CMD` of the opcode, the same for every beat, is the model's
inference (log entry 3), and so is that the first edge after reset only raises `cmd_ready` (log entry 5). -/
def Obligations.EdgeAcceptsOnlyAnOfferedBeatWhenReady : Prop :=
  (∀ s : State, s.phase = .ready → cmdReady s false = true) ∧
  (∀ (s : State) (b : Beat) (rest : List HostEvent), s.phase = .ready → s.host = .edge false false b :: rest →
    step s = .next { s with host := rest }) ∧
  (∀ (s : State) (b : Beat) (rest : List HostEvent), s.phase = .ready → s.host = .edge false true b :: rest →
    step s = if Config.tCmd (beatOp b) = 1 then exec (decode b) { s with host := rest }
      else .next { s with host := rest, phase := .busy (decode b) (Config.tCmd (beatOp b) - 2) }) ∧
  (∀ (s : State) (i : Instr) (n : Nat) (v v' : Bool) (b b' : Beat) (rest : List HostEvent), s.phase = .busy i n →
    step { s with host := .edge false v b :: rest } = step { s with host := .edge false v' b' :: rest }) ∧
  (∀ (s : State) (v : Bool) (b : Beat) (rest : List HostEvent),
    step { s with host := .edge true v b :: rest } = .next (resetEdge { s with host := rest })) ∧
  ∀ s : State, s.host = [] →
    (s.phase = .ready → step s = .next s) ∧
    (∀ i, s.phase = .busy i 0 → step s = exec i { s with phase := .ready }) ∧
    (∀ i n, s.phase = .busy i (n + 1) → step s = .next { s with phase := .busy i n }) ∧
    (s.phase = .inReset → step s = .next { s with phase := .ready })

/-- R56, R245: while `left + 1` edges remain of a busy window, `cmd_ready` is 0 and no element changes; at the last one all of the
instruction's writes take effect together, from the elements as they stood, and the block is ready. -/
def Obligations.BusyWindowEndsWithTheWholeEffect : Prop :=
  ∀ (s : State) (i : Instr) (left : Nat) (levels : List (Bool × Beat)) (rest : List HostEvent),
    s.phase = .busy i left → levels.length = left + 1 → s.host = edges levels ++ rest →
    (∀ k, k ≤ left → ∃ t, runSteps k s = .next t ∧ SameElements t s ∧
      t.phase = .busy i (left - k) ∧ ∀ r, cmdReady t r = false) ∧
    runSteps (left + 1) s = exec i { s with phase := .ready, host := rest }

/-- R62, R248: cycle by cycle or one beat per step, a beat has the same effect: an accepting edge and `T_CMD` - 1 further edges with
`rst` = 0 leave what the one step of an issued beat leaves. That `T_CMD` is one number per opcode, the same for every beat, is the
model's inference (log entry 3), and so is the one step of a whole beat (log entry 2). -/
def Obligations.AcceptedBeatOverItsCyclesEqualsOneStep : Prop :=
  ∀ (s : State) (b : Beat) (levels : List (Bool × Beat)) (rest : List HostEvent),
    s.phase = .ready → levels.length + 1 = Config.tCmd (beatOp b) → s.host = .edge false true b :: (edges levels ++ rest) →
    runSteps (Config.tCmd (beatOp b)) s = step { s with host := .beat b :: rest }

/-- R52, R53, R59: a valid read gives the host the register its address selects, and changes no element, nor anything else but the
host's own observation and its queue. -/
def Obligations.ValidReadReturnsTheSelectedRegister : Prop :=
  ∀ (s : State) (a : ReadAddr) (rest : List HostEvent), s.phase = .ready → s.host = .read false a :: rest →
    ∃ v, step s = .next { s with host := rest, sampled := some v } ∧
      (a = 0 → v = s.crcRaw) ∧ (a = 1 → v = s.crcRaw ^^^ 0xFFFFFFFF) ∧ (a = 2 → v = s.count) ∧ (a = 3 → v = s.typeCode) ∧
      (a = 4 → v = flagsOf s.typeCode) ∧ (a = 5 → v = statusOf s) ∧ (a = 6 → v = 0) ∧ (a = 7 → v = 0)

/-- R245, R241: a read in the busy window, with `rst` at 1, in reset or before the first reset gives a free value and changes no
element. That a read between the release of `rst` and the next edge is not valid is the model's inference (log entry 5); that each
such read draws a new value, and that a read is an action of its own, is the model's choice (log entry 7). -/
def Obligations.InvalidReadIsAFreeValue : Prop :=
  ∀ (s : State) (r : Bool) (a : ReadAddr) (rest : List HostEvent), (s.phase ≠ .ready ∨ r = true) →
    s.host = .read r a :: rest →
    step s = .next { s with host := rest, sampled := some (Config.freeRdData s.draws a), draws := s.draws + 1 }

/-- R62: beats take effect in issue order, each one whole before the next, and a valid read after them returns the value of the
state after every one of them. -/
def Obligations.ReadAfterBeatsSeesEveryBeat : Prop :=
  ∀ (s : State) (p : List Beat) (a : ReadAddr) (rest : List HostEvent), s.phase = .ready →
    s.host = p.map HostEvent.beat ++ (.read false a :: rest) →
    ∃ u, execAll (p.map decode) { s with host := .read false a :: rest } = .next u ∧
      runSteps p.length s = .next u ∧
      runSteps (p.length + 1) s = .next { u with host := rest, sampled := some (readReg u a) }

/-- R200, R75: no step faults and none is refused, whatever the host does and wherever the block stands. -/
def Obligations.EveryStepCompletes : Prop := ∀ s : State, Completes s

/-! ### Encoding (R70 to R79) -/

/-- Decoding the beat an instruction is encoded as gives the instruction back, at every operand value. -/
def Obligations.DecodeOfEncodeIsTheInstruction : Prop := ∀ i : Instr, decode (encode i) = i

/-- R74, R77: encoding the instruction a beat decodes to gives the beat with its ignored bits zero, and every used bit as it was. -/
def Obligations.EncodeOfDecodeKeepsTheUsedBits : Prop := ∀ b : Beat, encode (decode b) = b &&& usedBits (beatOp b)

/-- R74: two beats that differ only in ignored bits decode to one instruction and have the same effect. -/
def Obligations.IgnoredBitsHaveNoEffect : Prop :=
  ∀ b b' : Beat, b &&& usedBits (beatOp b) = b' &&& usedBits (beatOp b') →
    decode b = decode b' ∧ ∀ s : State, exec (decode b) s = exec (decode b') s

/-- R72, R73: the opcode map, with the operand of each form taken from its bits of `data`. -/
def Obligations.OpcodeMapIsTheSpecifiedOne : Prop :=
  ∀ d : Word,
    decode (mkBeat 0x0 d) = .nop ∧ decode (mkBeat 0x1 d) = .crcInit ∧
    decode (mkBeat 0x2 d) = .crcB1 (d.extractLsb' 0 8) ∧
    decode (mkBeat 0x3 d) = .crcB2 (d.extractLsb' 8 8) (d.extractLsb' 0 8) ∧
    decode (mkBeat 0x4 d) = .crcB3 (d.extractLsb' 16 8) (d.extractLsb' 8 8) (d.extractLsb' 0 8) ∧
    decode (mkBeat 0x5 d) = .crcB4 (d.extractLsb' 24 8) (d.extractLsb' 16 8) (d.extractLsb' 8 8) (d.extractLsb' 0 8) ∧
    decode (mkBeat 0x6 d) = .typeLoad (d.extractLsb' 24 8) (d.extractLsb' 16 8) (d.extractLsb' 8 8) (d.extractLsb' 0 8) ∧
    decode (mkBeat 0x7 d) = .chunkStart (d.extractLsb' 24 8) (d.extractLsb' 16 8) (d.extractLsb' 8 8) (d.extractLsb' 0 8) ∧
    decode (mkBeat 0x8 d) = .crcCheck d ∧ decode (mkBeat 0x9 d) = .clrErr ∧
    decode (mkBeat 0xA d) = .reservedA ∧ decode (mkBeat 0xB d) = .reservedB ∧ decode (mkBeat 0xC d) = .reservedC ∧
    decode (mkBeat 0xD d) = .reservedD ∧ decode (mkBeat 0xE d) = .reservedE ∧ decode (mkBeat 0xF d) = .reservedF

/-- R79: the worked encodings: each line assembles to its beat, and the beat decodes to the instruction it stands for. -/
def Obligations.WorkedEncodingsAssembleAndDecode : Prop :=
  assembleText "NOP" = .ok [0x000000000] ∧ decode 0x000000000 = .nop ∧
  assembleText "CRC_INIT" = .ok [0x100000000] ∧ decode 0x100000000 = .crcInit ∧
  assembleText "CRC_B1 \"!\"" = .ok [0x200000021] ∧ decode 0x200000021 = .crcB1 0x21 ∧
  assembleText "CRC_B2 \"Hi\"" = .ok [0x300004869] ∧ decode 0x300004869 = .crcB2 0x48 0x69 ∧
  assembleText "CRC_B3 \"be!\"" = .ok [0x400626521] ∧ decode 0x400626521 = .crcB3 0x62 0x65 0x21 ∧
  assembleText "CRC_B4 \"RuSt\"" = .ok [0x552755374] ∧ decode 0x552755374 = .crcB4 0x52 0x75 0x53 0x74 ∧
  assembleText "TYPE_LOAD \"IEND\"" = .ok [0x649454E44] ∧ decode 0x649454E44 = .typeLoad 0x49 0x45 0x4E 0x44 ∧
  assembleText "CHUNK_START \"RuSt\"" = .ok [0x752755374] ∧ decode 0x752755374 = .chunkStart 0x52 0x75 0x53 0x74 ∧
  assembleText "CRC_CHECK 2882656334" = .ok [0x8ABD1D84E] ∧ decode 0x8ABD1D84E = .crcCheck 2882656334 ∧
  assembleText "CLR_ERR" = .ok [0x900000000] ∧ decode 0x900000000 = .clrErr ∧
  assembleText ".beat 0xF_00000000" = .ok [0xF00000000] ∧ decode 0xF00000000 = .reservedF

/-- R76 to R78: the assembler accepts exactly the well-formed statements. -/
def Obligations.AssemblerAcceptsExactlyTheWellFormed : Prop :=
  ∀ st : Stmt, st.wf = true ↔ ∃ p, assemble st = .ok p

/-- R77: a command assembles to one beat, with the opcode of R72, with zero for no operand and a number zero-extended as its data, and
with zeros in its ignored bits; and that beat encodes what it decodes to. -/
def Obligations.AssembledCommandHasItsOpcodeAndItsOperand : Prop :=
  ∀ (m : Mnemonic) (o : Operand) (p : List Beat), assemble (.command m o) = .ok p →
    ∃ b, p = [b] ∧
      (m, beatOp b) ∈ [(Mnemonic.nop, (0x0 : Opcode)), (.crcInit, 0x1), (.crcB1, 0x2), (.crcB2, 0x3), (.crcB3, 0x4),
        (.crcB4, 0x5), (.typeLoad, 0x6), (.chunkStart, 0x7), (.crcCheck, 0x8), (.clrErr, 0x9)] ∧
      (o = .absent → beatData b = 0) ∧ (∀ v, o = .number v → (beatData b).toNat = v) ∧
      b &&& usedBits (beatOp b) = b ∧ encode (decode b) = b

/-- R76: a quoted string stands for its characters' codes, the first one most significant, in each form that takes a string. -/
def Obligations.QuotedStringPutsTheFirstCharacterFirst : Prop :=
  ∀ c0 c1 c2 c3 : Char, c0.toNat < 0x80 → c1.toNat < 0x80 → c2.toNat < 0x80 → c3.toNat < 0x80 →
    let y := fun c : Char => BitVec.ofNat 8 c.toNat
    assemble (.command .crcB1 (.text [c0])) = .ok [encode (.crcB1 (y c0))] ∧
    assemble (.command .crcB2 (.text [c0, c1])) = .ok [encode (.crcB2 (y c0) (y c1))] ∧
    assemble (.command .crcB3 (.text [c0, c1, c2])) = .ok [encode (.crcB3 (y c0) (y c1) (y c2))] ∧
    assemble (.command .crcB4 (.text [c0, c1, c2, c3])) = .ok [encode (.crcB4 (y c0) (y c1) (y c2) (y c3))] ∧
    assemble (.command .typeLoad (.text [c0, c1, c2, c3])) = .ok [encode (.typeLoad (y c0) (y c1) (y c2) (y c3))] ∧
    assemble (.command .chunkStart (.text [c0, c1, c2, c3])) = .ok [encode (.chunkStart (y c0) (y c1) (y c2) (y c3))]

/-- R77, R78: CRC_STR and CRC_HEX emit their bytes four to a beat and the last few in one more; CHUNK_CRC emits CHUNK_START of its
four characters and then what CRC_STR emits; `.beat` emits its 36 bits verbatim; and beats that carry a byte sequence so absorb it,
as does any other grouping of the same bytes into CRC_Bn instructions, which leaves the same state. -/
def Obligations.PseudoInstructionsEmitAndAbsorbTheirBytes : Prop :=
  (∀ cs : List Char, asciiText cs = true → ∃ p, assemble (.crcStr cs) = .ok p ∧ EmitsStream p (textBytes cs)) ∧
  (∀ ns : List Nat, (∀ n ∈ ns, n < 256) → ∃ p, assemble (.crcHex ns) = .ok p ∧ EmitsStream p (ns.map (BitVec.ofNat 8))) ∧
  (∀ (c0 c1 c2 c3 : Char) (cs : List Char), asciiText [c0, c1, c2, c3] = true → asciiText cs = true →
    ∃ p, assemble (.crcStr cs) = .ok p ∧
      assemble (.chunkCrc [c0, c1, c2, c3] cs) = .ok (encode (.chunkStart (BitVec.ofNat 8 c0.toNat) (BitVec.ofNat 8 c1.toNat)
        (BitVec.ofNat 8 c2.toNat) (BitVec.ofNat 8 c3.toNat)) :: p)) ∧
  (∀ b : Beat, assemble (.beat b.toNat) = .ok [b]) ∧
  ∀ (p : List Beat) (bs : List Byte) (s : State), EmitsStream p bs →
    ∃ t, execAll (p.map decode) s = .next t ∧
      t.crcRaw = crc32Raw s.crcRaw bs ∧ t.count = s.count + BitVec.ofNat 32 bs.length ∧
      ∀ is : List Instr, CarriesStream is bs → execAll is s = .next t

/-- R78: `RESTART` is CRC_INIT and then CLR_ERR: every element but TYPE at its reset value. -/
def Obligations.RestartIsInitThenClear : Prop :=
  assemble .restart = .ok [0x100000000, 0x900000000] ∧
  ∀ s : State, execAll restartInstrs s =
    .next { s with crcRaw := 0xFFFFFFFF, count := 0, matched := false, checked := false, lenOvf := false, illegal := false }

/-! ### The CRC (R100 to R109, R119) -/

/-- The values the spec works out: R103's examples of `absorb`, R6's check value, and R109's checksum with its 42 payload bytes. -/
def Obligations.CrcWorkedValues : Prop :=
  absorb 0x00000000 0x80 = 0xEDB88320 ∧ absorb 0x00000000 0x01 = 0x77073096 ∧
  absorb 0xFFFFFFFF 0x00 = 0x2DFD1072 ∧ absorb 0xFFFFFFFF 0xFF = 0x00FFFFFF ∧
  crc32 (textBytes "123456789".toList) = 0xCBF43926 ∧
  (textBytes "This is where your secret message will be!".toList).length = 42 ∧
  crc32 (textBytes ("RuSt".toList ++ "This is where your secret message will be!".toList)) = 2882656334

/-- R102, R6: the reflected form is the normal form with polynomial 0x04C11DB7, read with every bit order reversed. -/
def Obligations.ReflectedFormIsTheNormalFormReversed : Prop :=
  ∀ (c : Word) (b : Byte), (absorb c b).reverse = absorbNormal c.reverse b.reverse

/-- R108: a lookup table per byte gives what R103 gives, for every byte sequence. -/
def Obligations.TableDrivenCrcIsTheBitSerialCrc : Prop :=
  ∀ (c : Word) (s : List Byte), s.foldl absorbByTable c = crc32Raw c s

/-- R108: four bytes in one pass give what R101 gives. -/
def Obligations.FourBytesAtOnceIsTheBitSerialCrc : Prop :=
  ∀ (c : Word) (b0 b1 b2 b3 : Byte), absorbFour c b0 b1 b2 b3 = crc32Raw c [b0, b1, b2, b3]

/-- R6: a message followed by its own checksum, least-significant byte first, leaves the residue. -/
def Obligations.ResidueAfterAMessageAndItsOwnCrc : Prop :=
  ∀ s : List Byte,
    crc32Raw 0xFFFFFFFF (s ++ [byteOf (crc32 s) 0, byteOf (crc32 s) 1, byteOf (crc32 s) 2, byteOf (crc32 s) 3]) = 0xDEBB20E3

/-- R105: the splitting law, and what it means for the block: CRC_RAW and COUNT after CRC_Bn instructions depend only on the
concatenation of their bytes. -/
def Obligations.CrcDependsOnlyOnTheConcatenatedBytes : Prop :=
  (∀ (c : Word) (a b : List Byte), crc32Raw c (a ++ b) = crc32Raw (crc32Raw c a) b) ∧
  ∀ (s : State) (is : List Instr), (∀ i ∈ is, IsCrcBytes i) →
    ∃ t, execAll is s = .next t ∧ t.crcRaw = crc32Raw s.crcRaw (streamOf is) ∧
      t.count = s.count + BitVec.ofNat 32 (streamOf is).length

/-- R106, R100: after CHUNK_START, and then any instructions but CRC_INIT and CHUNK_START, the block holds the checksum of the type
bytes and the payload absorbed so far, and the payload's length modulo 2^32. -/
def Obligations.BlockHoldsTheChunkChecksumAndLength : Prop :=
  ∀ (s : State) (t : Word) (is : List Instr), (∀ i ∈ is, KeepsChunk i) →
    ∃ u, execAll (chunkStartOf t :: is) s = .next u ∧
      crcOut u = crc32 ([byteOf t 3, byteOf t 2, byteOf t 1, byteOf t 0] ++ streamOf is) ∧
      u.count.toNat = (streamOf is).length % 2 ^ 32

/-- R104, R247: LEN_OVF records exactly the payloads that a 32-bit length cannot state. -/
def Obligations.LenOvfExactlyWhenThePayloadIsTooLong : Prop :=
  ∀ (s : State) (t : Word) (is : List Instr), (∀ i ∈ is, KeepsChunk i) →
    ∃ u, execAll (chunkStartOf t :: is) s = .next u ∧ (u.lenOvf = true ↔ 0xFFFFFFFF < (streamOf is).length)

/-- R104: COUNT and LEN_OVF after a CRC_Bn that carries `n` bytes. -/
def Obligations.CountWrapsAndRecordsTheWrap : Prop :=
  ∀ (s : State) (i : Instr), IsCrcBytes i →
    ∃ t, exec i s = .next t ∧ t.count.toNat = (s.count.toNat + (streamBytes i).length) % 2 ^ 32 ∧
      (t.lenOvf = true ↔ s.lenOvf = true ∨ 0xFFFFFFFF < s.count.toNat + (streamBytes i).length)

/-- R107: the length never enters the CRC: two states that differ only in COUNT and LEN_OVF stay so under every instruction. -/
def Obligations.ChecksumIsIndependentOfTheCount : Prop :=
  ∀ (s : State) (i : Instr) (n : Word) (o : Bool),
    ∃ t n' o', exec i s = .next t ∧ exec i { s with count := n, lenOvf := o } = .next { t with count := n', lenOvf := o' }

/-- R119: the CRC is linear. -/
def Obligations.CrcIsLinear : Prop :=
  ∀ (c1 c2 : Word) (a b : List Byte), a.length = b.length →
    crc32Raw c1 a ^^^ crc32Raw c2 b = crc32Raw (c1 ^^^ c2) (List.zipWith (· ^^^ ·) a b)

/-- R119: a one-bit error anywhere in type or payload changes the checksum. -/
def Obligations.OneBitErrorChangesTheChecksum : Prop :=
  ∀ (s : List Byte) (k j : Nat) (b : Byte), s[k]? = some b → j < 8 → crc32 (s.set k (b ^^^ (1 <<< j))) ≠ crc32 s

/-! ### The commands -/

/-- R110. -/
def Obligations.CrcInitStartsANewComputation : Prop :=
  (∀ d : Word, decode (mkBeat 0x1 d) = .crcInit) ∧
  ∀ s : State,
    exec .crcInit s = .next { s with crcRaw := 0xFFFFFFFF, count := 0, matched := false, checked := false, lenOvf := false } ∧
    andThen (exec .crcInit s) (exec .crcInit) = exec .crcInit s

/-- R111. -/
def Obligations.CrcB1AbsorbsOneByte : Prop :=
  (∀ d : Word, decode (mkBeat 0x2 d) = .crcB1 (d.extractLsb' 0 8)) ∧
  ∀ (s : State) (b0 : Byte),
    exec (.crcB1 b0) s = .next { s with
      crcRaw := absorb s.crcRaw b0, count := s.count + 1
      lenOvf := s.lenOvf || decide (s.count = 0xFFFFFFFF), matched := false, checked := false }

/-- R112. -/
def Obligations.CrcB2AbsorbsTwoBytesHighByteFirst : Prop :=
  (∀ d : Word, decode (mkBeat 0x3 d) = .crcB2 (d.extractLsb' 8 8) (d.extractLsb' 0 8)) ∧
  ∀ (s : State) (b0 b1 : Byte),
    exec (.crcB2 b0 b1) s = .next { s with
      crcRaw := absorb (absorb s.crcRaw b0) b1, count := s.count + 2
      lenOvf := s.lenOvf || decide (0xFFFFFFFE ≤ s.count.toNat), matched := false, checked := false } ∧
    andThen (exec (.crcB1 b0) s) (exec (.crcB1 b1)) = exec (.crcB2 b0 b1) s

/-- R113. -/
def Obligations.CrcB3AbsorbsThreeBytesHighestFirst : Prop :=
  (∀ d : Word, decode (mkBeat 0x4 d) = .crcB3 (d.extractLsb' 16 8) (d.extractLsb' 8 8) (d.extractLsb' 0 8)) ∧
  ∀ (s : State) (b0 b1 b2 : Byte),
    exec (.crcB3 b0 b1 b2) s = .next { s with
      crcRaw := absorb (absorb (absorb s.crcRaw b0) b1) b2, count := s.count + 3
      lenOvf := s.lenOvf || decide (0xFFFFFFFD ≤ s.count.toNat), matched := false, checked := false }

/-- R114. -/
def Obligations.CrcB4AbsorbsFourBytesMostSignificantFirst : Prop :=
  (∀ d : Word, decode (mkBeat 0x5 d) =
    .crcB4 (d.extractLsb' 24 8) (d.extractLsb' 16 8) (d.extractLsb' 8 8) (d.extractLsb' 0 8)) ∧
  ∀ (s : State) (b0 b1 b2 b3 : Byte),
    exec (.crcB4 b0 b1 b2 b3) s = .next { s with
      crcRaw := absorb (absorb (absorb (absorb s.crcRaw b0) b1) b2) b3, count := s.count + 4
      lenOvf := s.lenOvf || decide (0xFFFFFFFC ≤ s.count.toNat), matched := false, checked := false }

/-- R115, with its comparison to CRC_INIT, CRC_B4 and TYPE_LOAD in a row. -/
def Obligations.ChunkStartStartsAChunkWithItsType : Prop :=
  (∀ d : Word, decode (mkBeat 0x7 d) =
    .chunkStart (d.extractLsb' 24 8) (d.extractLsb' 16 8) (d.extractLsb' 8 8) (d.extractLsb' 0 8)) ∧
  ∀ (s : State) (t0 t1 t2 t3 : Byte),
    exec (.chunkStart t0 t1 t2 t3) s = .next { s with
      crcRaw := absorb (absorb (absorb (absorb 0xFFFFFFFF t0) t1) t2) t3, typeCode := t0 ++ t1 ++ t2 ++ t3, count := 0
      matched := false, checked := false, lenOvf := false } ∧
    ∃ u, execAll [.crcInit, .crcB4 t0 t1 t2 t3, .typeLoad t0 t1 t2 t3] s = .next u ∧ u.count = 4 ∧
      exec (.chunkStart t0 t1 t2 t3) s = .next { u with count := 0 }

/-- R116. -/
def Obligations.CrcCheckComparesTheChecksum : Prop :=
  (∀ d : Word, decode (mkBeat 0x8 d) = .crcCheck d) ∧
  ∀ (s : State) (e : Word),
    exec (.crcCheck e) s = .next { s with checked := true, matched := decide (s.crcRaw ^^^ 0xFFFFFFFF = e) } ∧
    mismatch { s with checked := true, matched := decide (s.crcRaw ^^^ 0xFFFFFFFF = e) } = !decide (s.crcRaw ^^^ 0xFFFFFFFF = e)

/-- R155. -/
def Obligations.TypeLoadLoadsTypeOnly : Prop :=
  (∀ d : Word, decode (mkBeat 0x6 d) =
    .typeLoad (d.extractLsb' 24 8) (d.extractLsb' 16 8) (d.extractLsb' 8 8) (d.extractLsb' 0 8)) ∧
  ∀ (s : State) (t0 t1 t2 t3 : Byte), exec (.typeLoad t0 t1 t2 t3) s = .next { s with typeCode := t0 ++ t1 ++ t2 ++ t3 }

/-- R180. -/
def Obligations.NopLeavesEverything : Prop :=
  (∀ d : Word, decode (mkBeat 0x0 d) = .nop) ∧ ∀ s : State, exec .nop s = .next s

/-- R181. -/
def Obligations.ClrErrClearsIllegalOnly : Prop :=
  (∀ d : Word, decode (mkBeat 0x9 d) = .clrErr) ∧ ∀ s : State, exec .clrErr s = .next { s with illegal := false }

/-- R182, for each of the six reserved opcodes. -/
def Obligations.ReservedOpcodesSetIllegalOnly : Prop :=
  (∀ d : Word, decode (mkBeat 0xA d) = .reservedA ∧ decode (mkBeat 0xB d) = .reservedB ∧ decode (mkBeat 0xC d) = .reservedC ∧
    decode (mkBeat 0xD d) = .reservedD ∧ decode (mkBeat 0xE d) = .reservedE ∧ decode (mkBeat 0xF d) = .reservedF) ∧
  ∀ s : State,
    exec .reservedA s = .next { s with illegal := true } ∧ exec .reservedB s = .next { s with illegal := true } ∧
    exec .reservedC s = .next { s with illegal := true } ∧ exec .reservedD s = .next { s with illegal := true } ∧
    exec .reservedE s = .next { s with illegal := true } ∧ exec .reservedF s = .next { s with illegal := true }

/-! ### The whole machine (R23, R201 to R203) -/

/-- R23: each element is written only by the commands its row names, and no instruction touches the handshake or the host's side. -/
def Obligations.ElementsAreWrittenOnlyByTheirCommands : Prop :=
  ∀ (s : State) (i : Instr), ∃ t, exec i s = .next t ∧
    (t.crcRaw ≠ s.crcRaw → i = .crcInit ∨ IsCrcBytes i ∨ opcodeOf i = 0x7) ∧
    (t.count ≠ s.count → i = .crcInit ∨ IsCrcBytes i ∨ opcodeOf i = 0x7) ∧
    (t.typeCode ≠ s.typeCode → opcodeOf i = 0x6 ∨ opcodeOf i = 0x7) ∧
    (t.matched ≠ s.matched → opcodeOf i = 0x8 ∨ (t.matched = false ∧ (i = .crcInit ∨ IsCrcBytes i ∨ opcodeOf i = 0x7))) ∧
    (t.checked ≠ s.checked → (t.checked = true ∧ opcodeOf i = 0x8) ∨
      (t.checked = false ∧ (i = .crcInit ∨ IsCrcBytes i ∨ opcodeOf i = 0x7))) ∧
    (t.lenOvf ≠ s.lenOvf → (t.lenOvf = true ∧ IsCrcBytes i) ∨ (t.lenOvf = false ∧ (i = .crcInit ∨ opcodeOf i = 0x7))) ∧
    (t.illegal ≠ s.illegal → (t.illegal = true ∧ IsReserved i) ∨ (t.illegal = false ∧ i = .clrErr)) ∧
    t.phase = s.phase ∧ t.host = s.host ∧ t.sampled = s.sampled ∧ t.draws = s.draws

/-- R202: how long each indication lasts: under every instruction but those the rule names it stays, once there; reset ends E4, E5 and
E6; and no indication keeps a later instruction from running. -/
def Obligations.IndicationsLastUntilTheirCommands : Prop :=
  (∀ (s : State) (i : Instr), ∃ t, exec i s = .next t ∧
    (opcodeOf i ≠ 0x6 → opcodeOf i ≠ 0x7 → ∀ e ∈ [ErrorCode.e1, .e2, .e3], indicated t e = indicated s e) ∧
    (indicated s .e4 = true → opcodeOf i ≠ 0x8 → i ≠ .crcInit → opcodeOf i ≠ 0x7 → ¬ IsCrcBytes i → indicated t .e4 = true) ∧
    (indicated s .e4 = true → i = .crcInit ∨ opcodeOf i = 0x7 ∨ IsCrcBytes i → indicated t .e4 = false) ∧
    (indicated s .e5 = true → i ≠ .crcInit → opcodeOf i ≠ 0x7 → indicated t .e5 = true) ∧
    (i = .crcInit ∨ opcodeOf i = 0x7 → indicated t .e5 = false) ∧
    (indicated s .e6 = true → i ≠ .clrErr → indicated t .e6 = true) ∧
    (i = .clrErr → indicated t .e6 = false)) ∧
  ∀ s : State, ∀ e ∈ [ErrorCode.e4, .e5, .e6], indicated (resetEdge s) e = false

/-- R203: one beat newly raises at most one of E4, E5 and E6, each by its own commands; E1 and E2 exclude each other; and the error a
host reports is the first indicated in the order E6, E1, E2, E3, E5, E4. -/
def Obligations.SimultaneousErrorsAndTheirReportOrder : Prop :=
  (∀ (s : State) (i : Instr), ∃ t, exec i s = .next t ∧
    (indicated s .e4 = false → indicated t .e4 = true → opcodeOf i = 0x8) ∧
    (indicated s .e5 = false → indicated t .e5 = true → IsCrcBytes i) ∧
    (indicated s .e6 = false → indicated t .e6 = true → IsReserved i)) ∧
  (∀ s : State, ¬ (indicated s .e1 = true ∧ indicated s .e2 = true)) ∧
  ∀ s : State, reportedError s =
    if indicated s .e6 then some .e6 else if indicated s .e1 then some .e1 else if indicated s .e2 then some .e2
    else if indicated s .e3 then some .e3 else if indicated s .e5 then some .e5 else if indicated s .e4 then some .e4 else none

/-- R201: the cause of each indication. -/
def Obligations.ErrorCodesHaveTheirCauses : Prop :=
  (∀ s : State,
    (indicated s .e1 = true ↔ ∃ k, k < 4 ∧ 0x80 ≤ (s.typeCode.extractLsb' (8 * k) 8).toNat) ∧
    (indicated s .e2 = true ↔ (∀ k, k < 4 → (s.typeCode.extractLsb' (8 * k) 8).toNat < 0x80) ∧
      ∃ k, k < 4 ∧ isLetter (s.typeCode.extractLsb' (8 * k) 8) = false) ∧
    (indicated s .e3 = true ↔ s.typeCode.getLsbD 13 = true)) ∧
  (∀ (s : State) (e : Word), ∃ t, exec (.crcCheck e) s = .next t ∧ t.crcRaw = s.crcRaw ∧
    (indicated t .e4 = true ↔ s.crcRaw ^^^ 0xFFFFFFFF ≠ e)) ∧
  (∀ (s : State) (i : Instr), IsCrcBytes i → s.lenOvf = false → ∃ t, exec i s = .next t ∧
    (indicated t .e5 = true ↔ 0xFFFFFFFF < s.count.toNat + (streamBytes i).length)) ∧
  ∀ (s : State) (i : Instr), IsReserved i → ∃ t, exec i s = .next t ∧ indicated t .e6 = true

/-! ### FLAGS and STATUS (R28, R29, R140 to R156) -/

/-- R28, R142 to R146, R152: the place and the value of every FLAGS field but TERR. -/
def Obligations.FlagsFieldsAreTheSpecifiedBits : Prop :=
  ∀ t : Word,
    (flagsOf t).getLsbD 0 = t.getLsbD 29 ∧ (flagsOf t).getLsbD 1 = t.getLsbD 21 ∧
    (flagsOf t).getLsbD 2 = t.getLsbD 13 ∧ (flagsOf t).getLsbD 3 = t.getLsbD 5 ∧
    (flagsOf t).getLsbD 4 = !t.getLsbD 29 ∧ (flagsOf t).getLsbD 5 = !t.getLsbD 21 ∧
    (flagsOf t).getLsbD 6 = !t.getLsbD 13 ∧ (flagsOf t).getLsbD 7 = t.getLsbD 5 ∧
    (∀ k, k < 4 → (flagsOf t).getLsbD (8 + k) = isLetter (t.extractLsb' (24 - 8 * k) 8)) ∧
    ((flagsOf t).getLsbD 12 = true ↔ ∀ k, k < 4 → isLetter (t.extractLsb' (8 * k) 8) = true) ∧
    ((flagsOf t).getLsbD 13 = true ↔ ∀ k, k < 4 → (t.extractLsb' (8 * k) 8).toNat < 0x80) ∧
    (flagsOf t).getLsbD 16 = ((flagsOf t).getLsbD 12 && (flagsOf t).getLsbD 6) ∧
    ∀ k, 17 ≤ k → (flagsOf t).getLsbD k = false

/-- R141: which bytes are letters, that bit 5 of a letter is its case, and that a lowercase letter is its uppercase letter plus 0x20. -/
def Obligations.LetterCaseIsBitFive : Prop :=
  ∀ b : Byte,
    (isLetter b = true ↔ (0x41 ≤ b.toNat ∧ b.toNat ≤ 0x5A) ∨ (0x61 ≤ b.toNat ∧ b.toNat ≤ 0x7A)) ∧
    (isLetter b = true → (b.getLsbD 5 = false ↔ 0x41 ≤ b.toNat ∧ b.toNat ≤ 0x5A)) ∧
    (0x61 ≤ b.toNat ∧ b.toNat ≤ 0x7A → 0x41 ≤ (b - 0x20).toNat ∧ (b - 0x20).toNat ≤ 0x5A ∧ b = (b - 0x20) + 0x20)

/-- R150: TERR, with NotAscii taking precedence, and 0b11 never produced. -/
def Obligations.TypeErrorCodeAndItsPrecedence : Prop :=
  ∀ t : Word,
    ((flagsOf t).getLsbD 13 = false → (flagsOf t).extractLsb' 14 2 = 0b01) ∧
    ((flagsOf t).getLsbD 13 = true → (flagsOf t).getLsbD 12 = false → (flagsOf t).extractLsb' 14 2 = 0b10) ∧
    ((flagsOf t).getLsbD 13 = true → (flagsOf t).getLsbD 12 = true → (flagsOf t).extractLsb' 14 2 = 0b00) ∧
    (flagsOf t).extractLsb' 14 2 ≠ 0b11 ∧ ((flagsOf t).getLsbD 13 = false → (flagsOf t).getLsbD 12 = false)

/-- R156: FLAGS for the reference type codes. -/
def Obligations.ReferenceTypeCodesHaveTheirFlags : Prop :=
  flagsOf 0x52755374 = 0x00013FDA ∧ flagsOf 0x72755374 = 0x00013FCB ∧ flagsOf 0x52555354 = 0x00013F70 ∧
  flagsOf 0x72757374 = 0x00003F8F ∧ flagsOf 0x52757374 = 0x00003F9E ∧ flagsOf 0x49484452 = 0x00013F70 ∧
  flagsOf 0x49454E44 = 0x00013F70 ∧ flagsOf 0x74655874 = 0x00013FCB ∧ flagsOf 0x74455874 = 0x00013FE9 ∧
  flagsOf 0x52753174 = 0x0000AB9E ∧ flagsOf 0x52754074 = 0x0000ABDA ∧ flagsOf 0x31323334 = 0x0000A08F ∧
  flagsOf 0x52758074 = 0x00004BDA ∧ flagsOf 0x00000000 = 0x0000A070 ∧ flagsOf 0xFFFFFFFF = 0x0000408F

/-- R154: TYPE read back at address 3 is exactly the operand that TYPE_LOAD or CHUNK_START loaded, all 32 bits. -/
def Obligations.TypeReadsBackLosslessly : Prop :=
  ∀ (s : State) (op : Opcode) (d : Word) (rest : List HostEvent), s.phase = .ready → (op = 0x6 ∨ op = 0x7) →
    s.host = .beat (mkBeat op d) :: .read false 3 :: rest →
    ∃ t, runSteps 2 s = .next t ∧ t.sampled = some d ∧ t.typeCode = d

/-- R29: the place and the value of every STATUS field; bits 31:5 read as 0. -/
def Obligations.StatusFieldsAreTheSpecifiedBits : Prop :=
  ∀ s : State,
    (statusOf s).getLsbD 0 = s.matched ∧ (statusOf s).getLsbD 1 = s.checked ∧
    (statusOf s).getLsbD 2 = (s.checked && !s.matched) ∧ (statusOf s).getLsbD 3 = s.lenOvf ∧
    (statusOf s).getLsbD 4 = s.illegal ∧ ∀ k, 5 ≤ k → (statusOf s).getLsbD k = false

/-! ### What a host does with the block (R117, R118, R153) -/

/-- R118: after CHUNK_START, any CRC_Bn that carry the payload, and CRC_CHECK, MATCH is 1 if and only if the stored checksum is the
chunk's. -/
def Obligations.CheckMatchesExactlyTheChunkChecksum : Prop :=
  ∀ (s : State) (t stored : Word) (p : List Byte) (is : List Instr), CarriesStream is p →
    ∃ u, execAll (verifyInstrs t is stored) s = .next u ∧ u.checked = true ∧
      (u.matched = true ↔ stored = crc32 ([byteOf t 3, byteOf t 2, byteOf t 1, byteOf t 0] ++ p))

/-- R117, R54: the chunk a host forms from COUNT, TYPE and CRC_OUT, after CHUNK_START and any CRC_Bn that carry the payload, is the
payload's length, the type, the payload and its checksum, each big-endian; and none when the payload is longer than a 32-bit
length can state. -/
def Obligations.FormedChunkIsTheWireFormat : Prop :=
  ∀ (s : State) (t : Word) (p : List Byte) (is : List Instr), CarriesStream is p →
    ∃ u, execAll (chunkInstrs t is) s = .next u ∧
      formChunk p u =
        if 0xFFFFFFFF < p.length then none
        else some (wireBytes (BitVec.ofNat 32 p.length) ++ wireBytes t ++ p ++ wireBytes (crc32 (wireBytes t ++ p)))

/-- R153: the block enforces nothing: whatever TYPE holds, every instruction runs and does to every element but TYPE what it does at
any other TYPE; and the test of each policy a host may apply is one bit of FLAGS. -/
def Obligations.TypeNeverAltersAnInstructionAndPoliciesReadFlags : Prop :=
  (∀ (s : State) (i : Instr) (tc : Word),
    ∃ t tc', exec i s = .next t ∧ exec i { s with typeCode := tc } = .next { t with typeCode := tc' }) ∧
  ∀ t : Word,
    Policy.accepts .strictParse t = (flagsOf t).getLsbD 16 ∧ Policy.accepts .lenientLetters t = (flagsOf t).getLsbD 12 ∧
    Policy.accepts .lenientFromBytes t = (flagsOf t).getLsbD 13 ∧ Policy.accepts .authoring t = (flagsOf t).getLsbD 16

/-! ### The invariant -/

/-- The invariant holds right after reset. -/
def Obligations.InvariantHoldsAtReset : Prop := Inv State.reset

/-- Every step keeps the invariant: outside the time before the first reset MATCH is 1 only with CHECKED, and while reset lasts every
element has its reset value. -/
def Obligations.EveryStepKeepsTheInvariant : Prop := ∀ s t : State, Inv s → step s = .next t → Inv t
end

