-- ==== Sys2Proof/Laws/State.lean ====
section
/-! SUPPORT. What each shared operation leaves in each field of the state: one lemma per field per operation. -/

namespace Sys2Proof.Machine

@[simp] theorem clearCheck_crcRaw (s : State) : (clearCheck s).crcRaw = s.crcRaw := rfl
@[simp] theorem clearCheck_count (s : State) : (clearCheck s).count = s.count := rfl
@[simp] theorem clearCheck_typeCode (s : State) : (clearCheck s).typeCode = s.typeCode := rfl
@[simp] theorem clearCheck_matched (s : State) : (clearCheck s).matched = false := rfl
@[simp] theorem clearCheck_checked (s : State) : (clearCheck s).checked = false := rfl
@[simp] theorem clearCheck_lenOvf (s : State) : (clearCheck s).lenOvf = s.lenOvf := rfl
@[simp] theorem clearCheck_illegal (s : State) : (clearCheck s).illegal = s.illegal := rfl
@[simp] theorem clearCheck_phase (s : State) : (clearCheck s).phase = s.phase := rfl
@[simp] theorem clearCheck_host (s : State) : (clearCheck s).host = s.host := rfl
@[simp] theorem clearCheck_sampled (s : State) : (clearCheck s).sampled = s.sampled := rfl
@[simp] theorem clearCheck_draws (s : State) : (clearCheck s).draws = s.draws := rfl

@[simp] theorem countBytes_crcRaw (n : Nat) (s : State) : (countBytes n s).crcRaw = s.crcRaw := rfl
@[simp] theorem countBytes_count (n : Nat) (s : State) : (countBytes n s).count = (countTotal s.count n).truncate 32 := rfl
@[simp] theorem countBytes_typeCode (n : Nat) (s : State) : (countBytes n s).typeCode = s.typeCode := rfl
@[simp] theorem countBytes_matched (n : Nat) (s : State) : (countBytes n s).matched = s.matched := rfl
@[simp] theorem countBytes_checked (n : Nat) (s : State) : (countBytes n s).checked = s.checked := rfl
@[simp] theorem countBytes_lenOvf (n : Nat) (s : State) : (countBytes n s).lenOvf = (s.lenOvf || decide (0xFFFFFFFF < (countTotal s.count n).toNat)) := rfl
@[simp] theorem countBytes_illegal (n : Nat) (s : State) : (countBytes n s).illegal = s.illegal := rfl
@[simp] theorem countBytes_phase (n : Nat) (s : State) : (countBytes n s).phase = s.phase := rfl
@[simp] theorem countBytes_host (n : Nat) (s : State) : (countBytes n s).host = s.host := rfl
@[simp] theorem countBytes_sampled (n : Nat) (s : State) : (countBytes n s).sampled = s.sampled := rfl
@[simp] theorem countBytes_draws (n : Nat) (s : State) : (countBytes n s).draws = s.draws := rfl

@[simp] theorem absorbBytes_crcRaw (bs : List Byte) (s : State) : (absorbBytes bs s).crcRaw = crc32Raw s.crcRaw bs := rfl
@[simp] theorem absorbBytes_count (bs : List Byte) (s : State) : (absorbBytes bs s).count = (countTotal s.count bs.length).truncate 32 := rfl
@[simp] theorem absorbBytes_typeCode (bs : List Byte) (s : State) : (absorbBytes bs s).typeCode = s.typeCode := rfl
@[simp] theorem absorbBytes_matched (bs : List Byte) (s : State) : (absorbBytes bs s).matched = false := rfl
@[simp] theorem absorbBytes_checked (bs : List Byte) (s : State) : (absorbBytes bs s).checked = false := rfl
@[simp] theorem absorbBytes_lenOvf (bs : List Byte) (s : State) : (absorbBytes bs s).lenOvf = (s.lenOvf || decide (0xFFFFFFFF < (countTotal s.count bs.length).toNat)) := rfl
@[simp] theorem absorbBytes_illegal (bs : List Byte) (s : State) : (absorbBytes bs s).illegal = s.illegal := rfl
@[simp] theorem absorbBytes_phase (bs : List Byte) (s : State) : (absorbBytes bs s).phase = s.phase := rfl
@[simp] theorem absorbBytes_host (bs : List Byte) (s : State) : (absorbBytes bs s).host = s.host := rfl
@[simp] theorem absorbBytes_sampled (bs : List Byte) (s : State) : (absorbBytes bs s).sampled = s.sampled := rfl
@[simp] theorem absorbBytes_draws (bs : List Byte) (s : State) : (absorbBytes bs s).draws = s.draws := rfl

@[simp] theorem startCrc_crcRaw (c : Word) (s : State) : (startCrc c s).crcRaw = c := rfl
@[simp] theorem startCrc_count (c : Word) (s : State) : (startCrc c s).count = 0 := rfl
@[simp] theorem startCrc_typeCode (c : Word) (s : State) : (startCrc c s).typeCode = s.typeCode := rfl
@[simp] theorem startCrc_matched (c : Word) (s : State) : (startCrc c s).matched = false := rfl
@[simp] theorem startCrc_checked (c : Word) (s : State) : (startCrc c s).checked = false := rfl
@[simp] theorem startCrc_lenOvf (c : Word) (s : State) : (startCrc c s).lenOvf = false := rfl
@[simp] theorem startCrc_illegal (c : Word) (s : State) : (startCrc c s).illegal = s.illegal := rfl
@[simp] theorem startCrc_phase (c : Word) (s : State) : (startCrc c s).phase = s.phase := rfl
@[simp] theorem startCrc_host (c : Word) (s : State) : (startCrc c s).host = s.host := rfl
@[simp] theorem startCrc_sampled (c : Word) (s : State) : (startCrc c s).sampled = s.sampled := rfl
@[simp] theorem startCrc_draws (c : Word) (s : State) : (startCrc c s).draws = s.draws := rfl

@[simp] theorem recordIllegal_crcRaw (s : State) : (recordIllegal s).crcRaw = s.crcRaw := rfl
@[simp] theorem recordIllegal_count (s : State) : (recordIllegal s).count = s.count := rfl
@[simp] theorem recordIllegal_typeCode (s : State) : (recordIllegal s).typeCode = s.typeCode := rfl
@[simp] theorem recordIllegal_matched (s : State) : (recordIllegal s).matched = s.matched := rfl
@[simp] theorem recordIllegal_checked (s : State) : (recordIllegal s).checked = s.checked := rfl
@[simp] theorem recordIllegal_lenOvf (s : State) : (recordIllegal s).lenOvf = s.lenOvf := rfl
@[simp] theorem recordIllegal_illegal (s : State) : (recordIllegal s).illegal = true := rfl
@[simp] theorem recordIllegal_phase (s : State) : (recordIllegal s).phase = s.phase := rfl
@[simp] theorem recordIllegal_host (s : State) : (recordIllegal s).host = s.host := rfl
@[simp] theorem recordIllegal_sampled (s : State) : (recordIllegal s).sampled = s.sampled := rfl
@[simp] theorem recordIllegal_draws (s : State) : (recordIllegal s).draws = s.draws := rfl

@[simp] theorem clearIllegal_crcRaw (s : State) : (clearIllegal s).crcRaw = s.crcRaw := rfl
@[simp] theorem clearIllegal_count (s : State) : (clearIllegal s).count = s.count := rfl
@[simp] theorem clearIllegal_typeCode (s : State) : (clearIllegal s).typeCode = s.typeCode := rfl
@[simp] theorem clearIllegal_matched (s : State) : (clearIllegal s).matched = s.matched := rfl
@[simp] theorem clearIllegal_checked (s : State) : (clearIllegal s).checked = s.checked := rfl
@[simp] theorem clearIllegal_lenOvf (s : State) : (clearIllegal s).lenOvf = s.lenOvf := rfl
@[simp] theorem clearIllegal_illegal (s : State) : (clearIllegal s).illegal = false := rfl
@[simp] theorem clearIllegal_phase (s : State) : (clearIllegal s).phase = s.phase := rfl
@[simp] theorem clearIllegal_host (s : State) : (clearIllegal s).host = s.host := rfl
@[simp] theorem clearIllegal_sampled (s : State) : (clearIllegal s).sampled = s.sampled := rfl
@[simp] theorem clearIllegal_draws (s : State) : (clearIllegal s).draws = s.draws := rfl

@[simp] theorem resetEdge_crcRaw (s : State) : (resetEdge s).crcRaw = 0xFFFFFFFF := rfl
@[simp] theorem resetEdge_count (s : State) : (resetEdge s).count = 0 := rfl
@[simp] theorem resetEdge_typeCode (s : State) : (resetEdge s).typeCode = 0 := rfl
@[simp] theorem resetEdge_matched (s : State) : (resetEdge s).matched = false := rfl
@[simp] theorem resetEdge_checked (s : State) : (resetEdge s).checked = false := rfl
@[simp] theorem resetEdge_lenOvf (s : State) : (resetEdge s).lenOvf = false := rfl
@[simp] theorem resetEdge_illegal (s : State) : (resetEdge s).illegal = false := rfl
@[simp] theorem resetEdge_phase (s : State) : (resetEdge s).phase = .inReset := rfl
@[simp] theorem resetEdge_host (s : State) : (resetEdge s).host = s.host := rfl
@[simp] theorem resetEdge_sampled (s : State) : (resetEdge s).sampled = s.sampled := rfl
@[simp] theorem resetEdge_draws (s : State) : (resetEdge s).draws = s.draws := rfl

@[simp] theorem drawElements_crcRaw (s : State) : (drawElements s).crcRaw = Config.freeCrcRaw s.draws := rfl
@[simp] theorem drawElements_count (s : State) : (drawElements s).count = Config.freeCount s.draws := rfl
@[simp] theorem drawElements_typeCode (s : State) : (drawElements s).typeCode = Config.freeType s.draws := rfl
@[simp] theorem drawElements_matched (s : State) : (drawElements s).matched = Config.freeMatch s.draws := rfl
@[simp] theorem drawElements_checked (s : State) : (drawElements s).checked = Config.freeChecked s.draws := rfl
@[simp] theorem drawElements_lenOvf (s : State) : (drawElements s).lenOvf = Config.freeLenOvf s.draws := rfl
@[simp] theorem drawElements_illegal (s : State) : (drawElements s).illegal = Config.freeIllegal s.draws := rfl
@[simp] theorem drawElements_phase (s : State) : (drawElements s).phase = s.phase := rfl
@[simp] theorem drawElements_host (s : State) : (drawElements s).host = s.host := rfl
@[simp] theorem drawElements_sampled (s : State) : (drawElements s).sampled = s.sampled := rfl
@[simp] theorem drawElements_draws (s : State) : (drawElements s).draws = s.draws + 1 := rfl

@[simp] theorem takeRead_crcRaw (r : Bool) (a : ReadAddr) (s : State) : (takeRead r a s).crcRaw = s.crcRaw := rfl
@[simp] theorem takeRead_count (r : Bool) (a : ReadAddr) (s : State) : (takeRead r a s).count = s.count := rfl
@[simp] theorem takeRead_typeCode (r : Bool) (a : ReadAddr) (s : State) : (takeRead r a s).typeCode = s.typeCode := rfl
@[simp] theorem takeRead_matched (r : Bool) (a : ReadAddr) (s : State) : (takeRead r a s).matched = s.matched := rfl
@[simp] theorem takeRead_checked (r : Bool) (a : ReadAddr) (s : State) : (takeRead r a s).checked = s.checked := rfl
@[simp] theorem takeRead_lenOvf (r : Bool) (a : ReadAddr) (s : State) : (takeRead r a s).lenOvf = s.lenOvf := rfl
@[simp] theorem takeRead_illegal (r : Bool) (a : ReadAddr) (s : State) : (takeRead r a s).illegal = s.illegal := rfl
@[simp] theorem takeRead_phase (r : Bool) (a : ReadAddr) (s : State) : (takeRead r a s).phase = s.phase := rfl
@[simp] theorem takeRead_host (r : Bool) (a : ReadAddr) (s : State) : (takeRead r a s).host = s.host := rfl
@[simp] theorem takeRead_sampled (r : Bool) (a : ReadAddr) (s : State) : (takeRead r a s).sampled = some (rdData s r a) := rfl
@[simp] theorem takeRead_draws (r : Bool) (a : ReadAddr) (s : State) : (takeRead r a s).draws = if readValid s r then s.draws else s.draws + 1 := rfl

@[simp] theorem offerBeat_crcRaw (b : Beat) (s : State) : (offerBeat b s).crcRaw = s.crcRaw := rfl
@[simp] theorem offerBeat_count (b : Beat) (s : State) : (offerBeat b s).count = s.count := rfl
@[simp] theorem offerBeat_typeCode (b : Beat) (s : State) : (offerBeat b s).typeCode = s.typeCode := rfl
@[simp] theorem offerBeat_matched (b : Beat) (s : State) : (offerBeat b s).matched = s.matched := rfl
@[simp] theorem offerBeat_checked (b : Beat) (s : State) : (offerBeat b s).checked = s.checked := rfl
@[simp] theorem offerBeat_lenOvf (b : Beat) (s : State) : (offerBeat b s).lenOvf = s.lenOvf := rfl
@[simp] theorem offerBeat_illegal (b : Beat) (s : State) : (offerBeat b s).illegal = s.illegal := rfl
@[simp] theorem offerBeat_phase (b : Beat) (s : State) : (offerBeat b s).phase = .ready := rfl
@[simp] theorem offerBeat_host (b : Beat) (s : State) : (offerBeat b s).host = .beat b :: s.host := rfl
@[simp] theorem offerBeat_sampled (b : Beat) (s : State) : (offerBeat b s).sampled = s.sampled := rfl
@[simp] theorem offerBeat_draws (b : Beat) (s : State) : (offerBeat b s).draws = s.draws := rfl

end Sys2Proof.Machine
end

