-- ==== Sys2Proof/Laws/Ops.lean ====
section
/-! SUPPORT. The laws of the CRC register, the byte count and the read port. -/

namespace Sys2Proof.Machine

/-! ### The CRC register. -/

@[simp] theorem crc32Raw_nil (c : Word) : crc32Raw c [] = c := rfl

@[simp] theorem crc32Raw_cons (c : Word) (b : Byte) (s : List Byte) : crc32Raw c (b :: s) = crc32Raw (absorb c b) s := rfl

/-- The loop in two pieces. -/
theorem crcBits_add (m n : Nat) (c : Word) : crcBits (m + n) c = crcBits n (crcBits m c) := by
  induction m generalizing c with
  | zero => simp [crcBits]
  | succ m ih => rw [Nat.succ_add]; exact ih (crcBit c)

/-- One turn of the loop as a sum of shifted copies: R119's reason. -/
theorem crcBit_eq (c : Word) : crcBit c = (c >>> 1) ^^^ (if c.getLsbD 0 then crcPoly else 0) := by
  unfold crcBit
  split <;> simp

theorem crcBit_xor (c d : Word) : crcBit (c ^^^ d) = crcBit c ^^^ crcBit d := by
  simp only [crcBit_eq, BitVec.getLsbD_xor, BitVec.ushiftRight_xor_distrib]
  cases c.getLsbD 0 <;> cases d.getLsbD 0 <;> ext k <;> simp
  all_goals grind

/-- A register with its low bits clear only shifts. -/
theorem crcBit_of_even (c : Word) (h : c.getLsbD 0 = false) : crcBit c = c >>> 1 := by
  rw [crcBit_eq, h]; simp

/-! ### The byte count. -/

/-- R104: 33 bits hold the total of any count and any number of bytes a CRC_Bn carries. -/
theorem countTotal_toNat (c : Word) (n : Nat) (h : n ≤ 4) : (countTotal c n).toNat = c.toNat + n := by
  have := c.isLt
  simp only [countTotal, BitVec.toNat_add, BitVec.truncate_eq_setWidth, BitVec.toNat_setWidth, BitVec.toNat_ofNat]
  omega

/-- R104: COUNT wraps modulo 2^32. -/
theorem countTotal_truncate (c : Word) (n : Nat) : (countTotal c n).truncate 32 = c + BitVec.ofNat 32 n := by
  apply BitVec.eq_of_toNat_eq
  have := c.isLt
  simp only [countTotal, BitVec.truncate_eq_setWidth, BitVec.toNat_add, BitVec.toNat_setWidth, BitVec.toNat_ofNat]
  omega

/-! ### The read port. -/

theorem readValid_iff (s : State) (r : Bool) : readValid s r = true ↔ s.phase = .ready ∧ r = false := by
  simp [readValid]

theorem rdData_of_valid (s : State) (a : ReadAddr) (h : s.phase = .ready) : rdData s false a = readReg s a := by
  simp [rdData, readValid, h]

/-- A read reads no more of the state than its elements. -/
theorem readReg_congr {s t : State} (a : ReadAddr) (h : s.crcRaw = t.crcRaw ∧ s.count = t.count ∧ s.typeCode = t.typeCode ∧
    s.matched = t.matched ∧ s.checked = t.checked ∧ s.lenOvf = t.lenOvf ∧ s.illegal = t.illegal) :
    readReg s a = readReg t a := by
  obtain ⟨h1, h2, h3, h4, h5, h6, h7⟩ := h
  simp only [readReg, crcOut, statusOf, mismatch, h1, h2, h3, h4, h5, h6, h7]

@[simp] theorem andThen_next (s : State) (f : State → Host.Outcome State Fault Refusal) : andThen (.next s) f = f s := rfl

end Sys2Proof.Machine
end

