-- ==== Sys2Proof/Laws/Exec.lean ====
section
/-! SUPPORT. What the effect of an instruction can be. -/

namespace Sys2Proof.Machine

/-- If an instruction answers a next state, that state has the handshake, the host's queue and the model's own fields as they
were. -/
theorem exec_keeps_port {i : Instr} {s t : State} (h : exec i s = .next t) :
    t.phase = s.phase ∧ t.host = s.host ∧ t.sampled = s.sampled ∧ t.draws = s.draws := by
  cases i <;> (injection h with h; subst h; exact ⟨rfl, rfl, rfl, rfl⟩)

/-- An instruction does to a state with another queue and another phase what it does to the state. -/
theorem exec_with_port (i : Instr) (s : State) (p : Phase) (q : List HostEvent) :
    exec i { s with phase := p, host := q } = andThen (exec i s) (fun t => .next { t with phase := p, host := q }) := by
  cases i <;> rfl

/-- Every instruction that carries stream bytes does the same thing with them. -/
theorem exec_of_stream (i : Instr) (s : State) (h : streamBytes i ≠ []) : exec i s = .next (absorbBytes (streamBytes i) s) := by
  cases i <;> first | rfl | exact absurd rfl h

theorem streamBytes_length_le (i : Instr) : (streamBytes i).length ≤ 4 := by
  cases i <;> simp [streamBytes]

theorem execAll_nil (s : State) : execAll [] s = .next s := rfl

theorem execAll_cons (i : Instr) (is : List Instr) (s : State) : execAll (i :: is) s = andThen (exec i s) (execAll is) := rfl

end Sys2Proof.Machine
end

