-- ==== Sys2Proof/Laws/Chunk.lean ====
section
/-! SUPPORT. Sequences of instructions and the bytes they carry. -/

namespace Sys2Proof.Machine

@[simp] theorem streamOf_nil : streamOf [] = [] := rfl

@[simp] theorem streamOf_cons (i : Instr) (is : List Instr) : streamOf (i :: is) = streamBytes i ++ streamOf is := rfl

@[simp] theorem streamOf_append (is js : List Instr) : streamOf (is ++ js) = streamOf is ++ streamOf js := by
  simp [streamOf]

/-- Every CRC_Bn carries a byte. -/
theorem streamBytes_ne_nil {i : Instr} (h : IsCrcBytes i) : streamBytes i ≠ [] := by
  cases i <;> first | exact List.cons_ne_nil _ _ | simp [IsCrcBytes, opcodeOf] at h

/-- A sequence in two parts runs one part after the other. -/
theorem execAll_append (is js : List Instr) (s : State) : execAll (is ++ js) s = andThen (execAll is s) (execAll js) := by
  induction is generalizing s with
  | nil => rfl
  | cons i is ih =>
    rw [List.cons_append, execAll_cons, execAll_cons]
    cases exec i s with
    | next t => exact ih t
    | fault r => rfl
    | refused r => rfl

/-- The canonical grouping carries the bytes it groups. -/
theorem payloadInstrs_carries (bs : List Byte) : CarriesStream (payloadInstrs bs) bs := by
  induction bs using payloadInstrs.induct with
  | case1 b0 b1 b2 b3 rest ih => exact ⟨List.forall_mem_cons.2 ⟨by simp [IsCrcBytes, opcodeOf], ih.1⟩, congrArg ([b0, b1, b2, b3] ++ ·) ih.2⟩
  | case2 b0 b1 b2 => exact ⟨List.forall_mem_singleton.2 (by simp [IsCrcBytes, opcodeOf]), rfl⟩
  | case3 b0 b1 => exact ⟨List.forall_mem_singleton.2 (by simp [IsCrcBytes, opcodeOf]), rfl⟩
  | case4 b0 => exact ⟨List.forall_mem_singleton.2 (by simp [IsCrcBytes, opcodeOf]), rfl⟩
  | case5 => exact ⟨List.forall_mem_nil _, rfl⟩

end Sys2Proof.Machine
end

