-- ==== Sys2Proof/Laws/PerInstr.lean ====
section
/-! SUPPORT. For every instruction: its beat stands in its row of spec/opcode_table.json, `(b & mask) == match`. -/

namespace Sys2Proof.Laws.RowMatch

/-- The beat of the instruction matches its row: the mask is 0xF00000000 in every row. -/
def Statement : Instr → Prop
  | .nop => encode .nop &&& 0xF00000000 = 0x000000000
  | .crcInit => encode .crcInit &&& 0xF00000000 = 0x100000000
  | .crcB1 b0 => encode (.crcB1 b0) &&& 0xF00000000 = 0x200000000
  | .crcB2 b0 b1 => encode (.crcB2 b0 b1) &&& 0xF00000000 = 0x300000000
  | .crcB3 b0 b1 b2 => encode (.crcB3 b0 b1 b2) &&& 0xF00000000 = 0x400000000
  | .crcB4 b0 b1 b2 b3 => encode (.crcB4 b0 b1 b2 b3) &&& 0xF00000000 = 0x500000000
  | .typeLoad t0 t1 t2 t3 => encode (.typeLoad t0 t1 t2 t3) &&& 0xF00000000 = 0x600000000
  | .chunkStart t0 t1 t2 t3 => encode (.chunkStart t0 t1 t2 t3) &&& 0xF00000000 = 0x700000000
  | .crcCheck e => encode (.crcCheck e) &&& 0xF00000000 = 0x800000000
  | .clrErr => encode .clrErr &&& 0xF00000000 = 0x900000000
  | .reservedA => encode .reservedA &&& 0xF00000000 = 0xA00000000
  | .reservedB => encode .reservedB &&& 0xF00000000 = 0xB00000000
  | .reservedC => encode .reservedC &&& 0xF00000000 = 0xC00000000
  | .reservedD => encode .reservedD &&& 0xF00000000 = 0xD00000000
  | .reservedE => encode .reservedE &&& 0xF00000000 = 0xE00000000
  | .reservedF => encode .reservedF &&& 0xF00000000 = 0xF00000000

/-- A beat masked to its opcode is the opcode over zeros. -/
theorem mkBeat_masked (op : Opcode) (d : Word) : mkBeat op d &&& 0xF00000000 = mkBeat op 0 := by
  have h : (0xF00000000 : Beat) = mkBeat (BitVec.allOnes 4) 0 := by decide
  rw [h]
  apply BitVec.eq_of_getLsbD_eq
  intro k hk
  simp only [mkBeat, BitVec.getLsbD_and, BitVec.getLsbD_append, BitVec.getLsbD_allOnes]
  by_cases h32 : k < 32
  · simp [h32]
  · simp [h32, show k - 32 < 4 by omega]

theorem nop : Statement .nop := (mkBeat_masked 0x0 _).trans (by decide)
theorem crcInit : Statement .crcInit := (mkBeat_masked 0x1 _).trans (by decide)
theorem crcB1 (b0 : Byte) : Statement (.crcB1 b0) := (mkBeat_masked 0x2 _).trans (by decide)
theorem crcB2 (b0 b1 : Byte) : Statement (.crcB2 b0 b1) := (mkBeat_masked 0x3 _).trans (by decide)
theorem crcB3 (b0 b1 b2 : Byte) : Statement (.crcB3 b0 b1 b2) := (mkBeat_masked 0x4 _).trans (by decide)
theorem crcB4 (b0 b1 b2 b3 : Byte) : Statement (.crcB4 b0 b1 b2 b3) := (mkBeat_masked 0x5 _).trans (by decide)
theorem typeLoad (t0 t1 t2 t3 : Byte) : Statement (.typeLoad t0 t1 t2 t3) := (mkBeat_masked 0x6 _).trans (by decide)
theorem chunkStart (t0 t1 t2 t3 : Byte) : Statement (.chunkStart t0 t1 t2 t3) := (mkBeat_masked 0x7 _).trans (by decide)
theorem crcCheck (e : Word) : Statement (.crcCheck e) := (mkBeat_masked 0x8 _).trans (by decide)
theorem clrErr : Statement .clrErr := (mkBeat_masked 0x9 _).trans (by decide)
theorem reservedA : Statement .reservedA := (mkBeat_masked 0xA _).trans (by decide)
theorem reservedB : Statement .reservedB := (mkBeat_masked 0xB _).trans (by decide)
theorem reservedC : Statement .reservedC := (mkBeat_masked 0xC _).trans (by decide)
theorem reservedD : Statement .reservedD := (mkBeat_masked 0xD _).trans (by decide)
theorem reservedE : Statement .reservedE := (mkBeat_masked 0xE _).trans (by decide)
theorem reservedF : Statement .reservedF := (mkBeat_masked 0xF _).trans (by decide)

end Sys2Proof.Laws.RowMatch
end

