-- ==== Sys2Proof/Laws/Step.lean ====
section
/-! SUPPORT. The step by the host's next action. -/

namespace Sys2Proof.Machine

theorem step_of_idle {s : State} (h : s.host = []) : step s = clockEdge false false 0 s := by
  simp [step, takeHostEvent, h]

theorem step_of_beat {s : State} {b : Beat} {rest : List HostEvent} (h : s.host = .beat b :: rest) :
    step s = issueBeat b { s with host := rest } := by
  simp [step, takeHostEvent, h]

theorem step_of_edge {s : State} {r v : Bool} {b : Beat} {rest : List HostEvent} (h : s.host = .edge r v b :: rest) :
    step s = clockEdge r v b { s with host := rest } := by
  simp [step, takeHostEvent, h]

theorem step_of_read {s : State} {r : Bool} {a : ReadAddr} {rest : List HostEvent} (h : s.host = .read r a :: rest) :
    step s = .next (takeRead r a { s with host := rest }) := by
  simp [step, takeHostEvent, h]

@[simp] theorem runSteps_zero (s : State) : runSteps 0 s = .next s := rfl

theorem runSteps_succ (k : Nat) (s : State) : runSteps (k + 1) s = andThen (step s) (runSteps k) := rfl

/-- The host's own run is the model's. -/
theorem core_run_eq (k : Nat) (s : State) : Host.Core.run Sys2Proof.core k s = runSteps k s := by
  induction k generalizing s with
  | zero => rfl
  | succ k ih =>
    simp only [Host.Core.run, runSteps]
    have h : Sys2Proof.core.step s = step s := rfl
    rw [h]
    cases step s with
    | next t => exact ih t
    | fault r => rfl
    | refused r => rfl

end Sys2Proof.Machine
end

