-- ==== Sys2Proof/Tests/Slice0.lean ====
section
/-! SUPPORT. The model's own tests. Expected words and values are those of spec/30_encoding.md (R72, R79), of the command rules'
examples, and of spec/95_test_vectors.md; then, for each statement with hypotheses, a case that meets them. -/

open Sys2Proof Sys2Proof.Machine

namespace Sys2Proof.Tests

/-- What the host can read: CRC_RAW / CRC_OUT / COUNT / TYPE / FLAGS / STATUS, as spec/95_test_vectors.md writes a state. -/
def reads (o : Host.Outcome State Fault Refusal) : Option (List Word) :=
  match o with
  | .next s => some [readReg s 0, readReg s 1, readReg s 2, readReg s 3, readReg s 4, readReg s 5]
  | .fault _ => none
  | .refused _ => none

/-- The block after reset, but for COUNT and TYPE. -/
def withCount (count typeCode : Word) : State := { State.reset with count := count, typeCode := typeCode }

/-- The step that runs one beat right after reset. -/
def firstBeat (w : Nat) : Option (List Word) := reads (step (State.reset.withFetchWord 40 w))

/-! ### WellFormed refuses an ill-formed statement, one for each check. -/

theorem test_wf_operand_not_taken : (Stmt.command .nop (.number 0)).wf = false := by decide
theorem test_wf_text_not_taken : (Stmt.command .clrErr (.text ['a'])).wf = false := by decide
theorem test_wf_operand_missing : (Stmt.command .crcB2 .absent).wf = false := by decide
theorem test_wf_bytes_too_wide : (Stmt.command .crcB1 (.number 0x100)).wf = false := by decide
theorem test_wf_bytes_text_length : (Stmt.command .crcB3 (.text ['a', 'b'])).wf = false := by decide
theorem test_wf_bytes_text_not_ascii : (Stmt.command .crcB1 (.text ['é'])).wf = false := by decide
theorem test_wf_type_missing : (Stmt.command .typeLoad .absent).wf = false := by decide
theorem test_wf_type_too_wide : (Stmt.command .chunkStart (.number 0x100000000)).wf = false := by decide
theorem test_wf_type_text_length : (Stmt.command .typeLoad (.text ['R', 'u', 'S'])).wf = false := by decide
theorem test_wf_type_text_not_ascii : (Stmt.command .typeLoad (.text ['R', 'u', 'S', 'é'])).wf = false := by decide
theorem test_wf_cmp_missing : (Stmt.command .crcCheck .absent).wf = false := by decide
theorem test_wf_cmp_too_wide : (Stmt.command .crcCheck (.number 0x100000000)).wf = false := by decide
theorem test_wf_cmp_text : (Stmt.command .crcCheck (.text ['a', 'b', 'c', 'd'])).wf = false := by decide
theorem test_wf_beat_too_wide : (Stmt.beat 0x1000000000).wf = false := by decide
theorem test_wf_crc_str_not_ascii : (Stmt.crcStr ['é']).wf = false := by decide
theorem test_wf_crc_hex_too_wide : (Stmt.crcHex [0x31, 0x100]).wf = false := by decide
theorem test_wf_chunk_crc_type_length : (Stmt.chunkCrc ['a'] []).wf = false := by decide
theorem test_wf_chunk_crc_type_not_ascii : (Stmt.chunkCrc ['é', 'b', 'c', 'd'] []).wf = false := by decide
theorem test_wf_chunk_crc_text_not_ascii : (Stmt.chunkCrc ['a', 'b', 'c', 'd'] ['é']).wf = false := by decide

/-! ### Decoding: words written out from R72, R73 and spec/opcode_table.json, each with ones in every ignored bit. -/

theorem test_decode_nop : decode 0b0000_11111111_11111111_11111111_11111111 = .nop := by decide
theorem test_decode_crcInit : decode 0b0001_11111111_11111111_11111111_11111111 = .crcInit := by decide
theorem test_decode_crcB1 : decode 0b0010_11111111_11111111_11111111_01100001 = .crcB1 0x61 := by decide
theorem test_decode_crcB2 : decode 0b0011_11111111_11111111_01001000_01101001 = .crcB2 0x48 0x69 := by decide
theorem test_decode_crcB3 : decode 0b0100_11111111_01100001_01100010_01100011 = .crcB3 0x61 0x62 0x63 := by decide
theorem test_decode_crcB4 : decode 0b0101_01010010_01110101_01010011_01110100 = .crcB4 0x52 0x75 0x53 0x74 := by decide
theorem test_decode_typeLoad : decode 0b0110_01001001_01000101_01001110_01000100 = .typeLoad 0x49 0x45 0x4E 0x44 := by decide
theorem test_decode_chunkStart : decode 0b0111_01001001_01000101_01001110_01000100 = .chunkStart 0x49 0x45 0x4E 0x44 := by
  decide
theorem test_decode_crcCheck : decode 0b1000_10101110_01000010_01100000_10000010 = .crcCheck 0xAE426082 := by decide
theorem test_decode_clrErr : decode 0b1001_11111111_11111111_11111111_11111111 = .clrErr := by decide
theorem test_decode_reservedA : decode 0b1010_11111111_11111111_11111111_11111111 = .reservedA := by decide
theorem test_decode_reservedB : decode 0b1011_11111111_11111111_11111111_11111111 = .reservedB := by decide
theorem test_decode_reservedC : decode 0b1100_11111111_11111111_11111111_11111111 = .reservedC := by decide
theorem test_decode_reservedD : decode 0b1101_11111111_11111111_11111111_11111111 = .reservedD := by decide
theorem test_decode_reservedE : decode 0b1110_11111111_11111111_11111111_11111111 = .reservedE := by decide
theorem test_decode_reservedF : decode 0b1111_11111111_11111111_11111111_11111111 = .reservedF := by decide

/-- R71: no beat is wider than 36 bits. -/
theorem test_decode_rejects_wider : decodeBits 0x1000000000 = .error .widerThanABeat := by decide
theorem test_decodeTableWord : decodeTableWord 40 0x900000000 = some .clrErr := by decide

/-! ### The effect of one beat, from spec/95_test_vectors.md. -/

/-- V-CTL-2. -/
theorem test_nop : firstBeat 0x0FFFFFFFF = some [0xFFFFFFFF, 0, 0, 0, 0xA070, 0] := by decide +kernel
/-- V-CNT-8. -/
theorem test_crcInit : reads (exec .crcInit { State.reset with crcRaw := 1, count := 4, lenOvf := true, checked := true }) =
    some [0xFFFFFFFF, 0, 0, 0, 0xA070, 0] := by decide +kernel
/-- V-CTL-5: ILLEGAL survives CRC_INIT. -/
theorem test_crcInit_keeps_illegal : reads (exec .crcInit { State.reset with illegal := true, typeCode := 0x52755374 }) =
    some [0xFFFFFFFF, 0, 0, 0x52755374, 0x13FDA, 0x10] := by decide +kernel
/-- V-CRC-2. -/
theorem test_crcB1 : firstBeat 0x2FFFFFF61 = some [0x174841BC, 0xE8B7BE43, 1, 0, 0xA070, 0] := by decide +kernel
/-- V-CNT-1. -/
theorem test_crcB1_wraps : (reads (exec (.crcB1 0x64) (withCount 0xFFFFFFFF 0))).map (·.drop 2) =
    some [0, 0, 0xA070, 8] := by decide +kernel
/-- V-CRC-5. -/
theorem test_crcB2 : firstBeat 0x300004869 = some [0xB2E8F1F1, 0x4D170E0E, 2, 0, 0xA070, 0] := by decide +kernel
/-- V-CNT-2. -/
theorem test_crcB2_wraps : (reads (exec (.crcB2 0x63 0x64) (withCount 0xFFFFFFFE 0))).map (·.drop 2) =
    some [0, 0, 0xA070, 8] := by decide +kernel
/-- V-CRC-6. -/
theorem test_crcB3 : firstBeat 0x400616263 = some [0xCADBBE3D, 0x352441C2, 3, 0, 0xA070, 0] := by decide +kernel
/-- V-CNT-3. -/
theorem test_crcB3_wraps : (reads (exec (.crcB3 0x62 0x63 0x64) (withCount 0xFFFFFFFD 0))).map (·.drop 2) =
    some [0, 0, 0xA070, 8] := by decide +kernel
/-- V-CRC-7. -/
theorem test_crcB4 : firstBeat 0x552755374 = some [0x2B7BF6C3, 0xD484093C, 4, 0, 0xA070, 0] := by decide +kernel
/-- V-CNT-6: the largest count that does not wrap; the CRC is that of V-CNT-4. -/
theorem test_crcB4_last_count : reads (exec (.crcB4 0x61 0x62 0x63 0x64) (withCount 0xFFFFFFFB 0)) =
    some [0x127D32EE, 0xED82CD11, 0xFFFFFFFF, 0, 0xA070, 0] := by decide +kernel
/-- V-TYP-15: a type that is no ASCII text. -/
theorem test_typeLoad : firstBeat 0x6C3A95374 = some [0xFFFFFFFF, 0, 0, 0xC3A95374, 0x4CDA, 0] := by decide +kernel
/-- V-TYP-9: the byte above 'Z'. -/
theorem test_typeLoad_above_z : firstBeat 0x652755B74 = some [0xFFFFFFFF, 0, 0, 0x52755B74, 0xABDA, 0] := by decide +kernel
/-- V-CRC-8. -/
theorem test_chunkStart : firstBeat 0x749454E44 = some [0x51BD9F7D, 0xAE426082, 0, 0x49454E44, 0x13F70, 0] := by decide +kernel
/-- P5: a second CHUNK_START discards the first chunk's CRC and count. -/
theorem test_chunkStart_restarts : reads (exec (.chunkStart 0x49 0x45 0x4E 0x44)
    { State.reset with crcRaw := 0x86A7238D, count := 6, typeCode := 0x74655874, matched := true, checked := true }) =
    some [0x51BD9F7D, 0xAE426082, 0, 0x49454E44, 0x13F70, 0] := by decide +kernel
/-- V-CRC-9. -/
theorem test_crcCheck_match : reads (exec (.crcCheck 0xAE426082) { State.reset with crcRaw := 0x51BD9F7D }) =
    some [0x51BD9F7D, 0xAE426082, 0, 0, 0xA070, 3] := by decide +kernel
/-- V-CRC-22: the last check wins. -/
theorem test_crcCheck_mismatch :
    reads (exec (.crcCheck 0xAE426083) { State.reset with crcRaw := 0x51BD9F7D, checked := true, matched := true }) =
    some [0x51BD9F7D, 0xAE426082, 0, 0, 0xA070, 6] := by decide +kernel
/-- V-CTL-8: LEN_OVF is not cleared. -/
theorem test_clrErr : reads (exec .clrErr { State.reset with lenOvf := true, illegal := true }) =
    some [0xFFFFFFFF, 0, 0, 0, 0xA070, 8] := by decide +kernel
/-- V-CTL-3. -/
theorem test_reservedA : firstBeat 0xA00000000 = some [0xFFFFFFFF, 0, 0, 0, 0xA070, 0x10] := by decide +kernel
/-- V-CTL-9's reserved beat. -/
theorem test_reservedB : firstBeat 0xB00000000 = some [0xFFFFFFFF, 0, 0, 0, 0xA070, 0x10] := by decide +kernel
/-- V-CTL-4. -/
theorem test_reservedC : firstBeat 0xC12345678 = some [0xFFFFFFFF, 0, 0, 0, 0xA070, 0x10] := by decide +kernel
/-- R182. -/
theorem test_reservedD : firstBeat 0xD00000000 = some [0xFFFFFFFF, 0, 0, 0, 0xA070, 0x10] := by decide +kernel
/-- P3's reserved beat. -/
theorem test_reservedE : firstBeat 0xE00000000 = some [0xFFFFFFFF, 0, 0, 0, 0xA070, 0x10] := by decide +kernel
/-- V-CTL-7's reserved beat, after a wrap: STATUS 00000018. -/
theorem test_reservedF : (reads (exec .reservedF { State.reset with lenOvf := true })).map (·.drop 5) = some [0x18] := by
  decide +kernel

/-! ### The host's side. -/

/-- P3's note on R203: with TYPE "Ru1t" and a reserved beat, E6 is reported first and then E2. -/
theorem test_report_order : reportedError { State.reset with typeCode := 0x52753174, illegal := true } = some .e6 ∧
    reportedError { State.reset with typeCode := 0x52753174 } = some .e2 := by decide

/-- The chunk of V-SRC-4 on the wire, from the block's results. -/
theorem test_formChunk : formChunk [0x68, 0x65, 0x6C, 0x6C, 0x6F]
    { State.reset with crcRaw := 0x51AF7290, count := 5, typeCode := 0x72755374 } =
    some [0, 0, 0, 5, 0x72, 0x75, 0x53, 0x74, 0x68, 0x65, 0x6C, 0x6C, 0x6F, 0xAE, 0x50, 0x8D, 0x6F] := by decide

/-- The first lines of P1, with their comments. -/
theorem test_assembler : assembleText "  CHUNK_START \"RuSt\"   ; 0x7_52755374\n  CRC_B4 \" is \"  ; a comment\n\n" =
    .ok [0x752755374, 0x520697320] := by decide +kernel

/-- R78's grouping: V-CRC-10 as CRC_HEX, and CHUNK_CRC with V-SRC-5's text. -/
theorem test_pseudo_instructions :
    assembleText "CRC_HEX 31 32 33 34 35 36 37 38 39" = .ok [0x531323334, 0x535363738, 0x200000039] ∧
    assembleText "CHUNK_CRC \"teXt\", \"secret\"" = .ok [0x774655874, 0x573656372, 0x300006574] := by decide +kernel

/-- R76: errors are named. -/
theorem test_assembler_errors : assembleText "FOO" = .error .unknownMnemonic ∧
    assembleText "CRC_B1 \"ab\"" = .error .wrongStringLength ∧ assembleText "CRC_B1 0x100" = .error .numberTooWide ∧
    assembleText "NOP 1" = .error .operandNotTaken ∧ assembleText "CRC_CHECK" = .error .operandMissing := by decide +kernel

/-! ### Cases that meet the hypotheses of the statements. -/

/-- The block in a busy window with two edges left, its host offering edges. -/
def busyState : State :=
  { State.reset with phase := .busy (.crcB1 0x61) 1, host := edges [(true, 0x900000000), (false, 0)] ++ [.read false 0] }

/-- The block while reset lasts. -/
def inResetState (host : List HostEvent) : State := { State.reset with phase := .inReset, host := host }

theorem witness_ResetState : State.reset.typeCode = 0 ∧ State.reset.illegal = false := by decide

theorem witness_ResetEdge : ∃ (s : State) (v : Bool) (b : Beat) (rest : List HostEvent), s.host = .edge true v b :: rest ∧
    s.phase = .busy (.crcB1 0x61) 1 :=
  ⟨{ busyState with host := [.edge true true 0x200000061] }, true, 0x200000061, [], rfl, rfl⟩

/-- `cmd_ready` under `rst`, in each phase after the first reset. -/
theorem witness_ResetEdge_ready : State.reset.phase ≠ .unreset ∧ (inResetState []).phase ≠ .unreset ∧
    busyState.phase ≠ .unreset := by decide

theorem witness_Release : (inResetState [.edge false true 0x200000061]).phase = .inReset ∧
    SameElements (inResetState [.edge false true 0x200000061]) State.reset ∧
    (inResetState [.edge false true 0x200000061]).host = .edge false true 0x200000061 :: [] := by decide

theorem witness_FreeBeforeReset_idle : powerUp.phase = .unreset ∧ powerUp.host = [] := ⟨rfl, rfl⟩

theorem witness_FreeBeforeReset_beat : { powerUp with host := [.beat 0x200000061] }.phase = .unreset ∧
    { powerUp with host := [.beat 0x200000061] }.host = .beat 0x200000061 :: [] := ⟨rfl, rfl⟩

theorem witness_FreeBeforeReset_edge : { powerUp with host := [.edge false true 0x200000061] }.phase = .unreset ∧
    { powerUp with host := [.edge false true 0x200000061] }.host = .edge false true 0x200000061 :: [] := ⟨rfl, rfl⟩

theorem witness_StepRuns : (State.reset.withFetchWord 40 0x200000061).phase = .ready ∧
    (State.reset.withFetchWord 40 0x200000061).host = .beat 0x200000061 :: [] := by decide

theorem witness_StepRuns_busy : { busyState with host := [.beat 0x200000061] }.phase = .busy (.crcB1 0x61) 1 ∧
    { busyState with host := [.beat 0x200000061] }.host = .beat 0x200000061 :: [] := by decide

theorem witness_StepRuns_inReset : (inResetState [.beat 0x200000061]).phase = .inReset ∧
    (inResetState [.beat 0x200000061]).host = .beat 0x200000061 :: [] := by decide

theorem witness_EdgeAccepts_not_offered : { State.reset with host := [.edge false false 0x200000061] }.phase = .ready ∧
    { State.reset with host := [.edge false false 0x200000061] }.host = .edge false false 0x200000061 :: [] := by decide

theorem witness_EdgeAccepts_offered : { State.reset with host := [.edge false true 0x200000061] }.phase = .ready ∧
    { State.reset with host := [.edge false true 0x200000061] }.host = .edge false true 0x200000061 :: [] := by decide

theorem witness_EdgeAccepts_busy : busyState.phase = .busy (.crcB1 0x61) 1 := by decide

/-- An idle host at a ready block, at either end of a busy window, and in reset. -/
theorem witness_EdgeAccepts_idle :
    (State.reset.host = [] ∧ State.reset.phase = .ready) ∧
    ({ State.reset with phase := .busy (.crcB1 0x61) 0 }.host = [] ∧
      { State.reset with phase := .busy (.crcB1 0x61) 0 }.phase = .busy (.crcB1 0x61) 0) ∧
    ({ busyState with host := [] }.host = [] ∧ { busyState with host := [] }.phase = .busy (.crcB1 0x61) (0 + 1)) ∧
    ((inResetState []).host = [] ∧ (inResetState []).phase = .inReset) := by decide

theorem witness_BusyWindow : busyState.phase = .busy (.crcB1 0x61) 1 ∧
    ([(true, 0x900000000), (false, 0)] : List (Bool × Beat)).length = 1 + 1 ∧
    busyState.host = edges [(true, 0x900000000), (false, 0)] ++ [.read false 0] := by decide

/-- As many edges as the beat takes, whatever `T_CMD` is. -/
theorem witness_AcceptedBeat : ∃ (s : State) (levels : List (Bool × Beat)), s.phase = .ready ∧
    levels.length + 1 = Config.tCmd (beatOp 0x200000061) ∧ s.host = .edge false true 0x200000061 :: (edges levels ++ []) :=
  ⟨{ State.reset with
      host := .edge false true 0x200000061 :: (edges (List.replicate (Config.extraCycles (beatOp 0x200000061)) (false, 0)) ++ []) },
    List.replicate (Config.extraCycles (beatOp 0x200000061)) (false, 0), rfl, by simp [Config.tCmd], rfl⟩

/-- Every address of the read port is the premise of a clause of its own. -/
theorem witness_ValidRead (a : ReadAddr) : { State.reset with host := [.read false a] }.phase = .ready ∧
    { State.reset with host := [.read false a] }.host = .read false a :: [] := ⟨rfl, rfl⟩

theorem witness_ValidRead_addresses : ∀ a : ReadAddr,
    a = 0 ∨ a = 1 ∨ a = 2 ∨ a = 3 ∨ a = 4 ∨ a = 5 ∨ a = 6 ∨ a = 7 := by decide

theorem witness_InvalidRead_busy : { busyState with host := [.read false 1] }.phase ≠ .ready ∧
    { busyState with host := [.read false 1] }.host = .read false 1 :: [] := by decide

theorem witness_InvalidRead_rst : { State.reset with host := [.read true 1] }.host = .read true 1 :: [] := by decide

theorem witness_ReadAfterBeats :
    { State.reset with host := [.beat 0x200000061, .beat 0x300004869, .read false 0] }.phase = .ready ∧
    { State.reset with host := [.beat 0x200000061, .beat 0x300004869, .read false 0] }.host =
      [0x200000061, 0x300004869].map HostEvent.beat ++ (.read false 0 :: []) := by decide

theorem witness_IgnoredBits :
    (0x200000061 : Beat) &&& usedBits (beatOp 0x200000061) = 0x2FFFFFF61 &&& usedBits (beatOp 0x2FFFFFF61) := by decide

theorem witness_AssembledCommand : assemble (.command .crcB2 (.text ['H', 'i'])) = .ok [0x300004869] := by decide

/-- No operand, and the largest number of a form. -/
theorem witness_AssembledCommand_forms : assemble (.command .crcInit .absent) = .ok [0x100000000] ∧
    assemble (.command .crcB2 (.number 0xFFFF)) = .ok [0x30000FFFF] := by decide

theorem witness_QuotedString : 'R'.toNat < 0x80 ∧ 'u'.toNat < 0x80 ∧ 'S'.toNat < 0x80 ∧ 't'.toNat < 0x80 := by decide

/-- The last ASCII character is still one. -/
theorem witness_QuotedString_boundary : (Char.ofNat 0x7F).toNat < 0x80 ∧ ¬ (Char.ofNat 0x80).toNat < 0x80 := by decide

/-- V-CRC-10: the beats of `CRC_STR "123456789"`. -/
theorem witness_EmitsStream :
    EmitsStream [0x531323334, 0x535363738, 0x200000039] [0x31, 0x32, 0x33, 0x34, 0x35, 0x36, 0x37, 0x38, 0x39] := by
  refine ⟨by decide, fun k b h => ?_⟩
  rcases k with _ | _ | _ | k <;> simp at h <;> subst h <;> decide

/-- V-CRC-13: the same bytes in another grouping; and a string, byte numbers at both ends of their range, and a beat of ones. -/
theorem witness_PseudoInstructions :
    CarriesStream [.crcB2 0x31 0x32, .crcB4 0x33 0x34 0x35 0x36, .crcB2 0x37 0x38, .crcB1 0x39]
      [0x31, 0x32, 0x33, 0x34, 0x35, 0x36, 0x37, 0x38, 0x39] ∧
    asciiText ['a', 'b', 'c', 'd', 'e'] = true ∧ asciiText ['t', 'e', 'X', 't'] = true ∧ (∀ n ∈ [0, 0xFF], n < 256) ∧
    assemble (.crcHex [0, 0xFF]) = .ok [0x3000000FF] ∧ assemble (.beat 0xFFFFFFFFF) = .ok [0xFFFFFFFFF] := by decide

/-- A payload one byte longer than a 32-bit length can state (R247). -/
theorem witness_FormedChunk_too_long :
    CarriesStream (List.replicate 0x40000000 (.crcB4 0 0 0 0)) (streamOf (List.replicate 0x40000000 (.crcB4 0 0 0 0))) ∧
    0xFFFFFFFF < (streamOf (List.replicate 0x40000000 (.crcB4 0 0 0 0))).length := by
  refine ⟨⟨fun i hi => ?_, rfl⟩, ?_⟩
  · rw [List.eq_of_mem_replicate hi]; decide
  · have h : ∀ n, (streamOf (List.replicate n (.crcB4 0 0 0 0))).length = 4 * n := by
      intro n
      induction n with
      | zero => rfl
      | succ n ih => rw [List.replicate_succ, streamOf, List.flatMap_cons, List.length_append, ← streamOf, ih, Nat.mul_succ,
          Nat.add_comm]; rfl
    rw [h]; decide

theorem witness_Concatenated : ∀ i ∈ [Instr.crcB1 0x61, .crcB4 0x62 0x63 0x64 0x65], IsCrcBytes i := by decide

/-- Instructions of every kind but CRC_INIT and CHUNK_START may stand inside a chunk. -/
theorem witness_KeepsChunk : ∀ i ∈ [Instr.nop, .crcB1 0x61, .crcB4 0x62 0x63 0x64 0x65, .typeLoad 0 0 0 0, .crcCheck 0, .clrErr,
    .reservedA], KeepsChunk i := by decide

theorem witness_CountWraps : IsCrcBytes (.crcB1 0x61) ∧ IsCrcBytes (.crcB4 0x61 0x62 0x63 0x64) := by decide

theorem witness_Linear : ([0x61, 0x62] : List Byte).length = ([0x63, 0x64] : List Byte).length := by decide

theorem witness_OneBitError : ([0x61, 0x62] : List Byte)[1]? = some 0x62 ∧ (7 : Nat) < 8 := by decide

/-- R23's clauses: each element does change under its command. -/
theorem witness_ElementsWritten :
    absorb State.reset.crcRaw 0 ≠ State.reset.crcRaw ∧ (State.reset.count + 1) ≠ State.reset.count ∧
    (packWord 0x52 0x75 0x53 0x74) ≠ State.reset.typeCode ∧ (true ≠ State.reset.matched) ∧ (true ≠ State.reset.checked) ∧
    (true ≠ State.reset.lenOvf) ∧ (true ≠ State.reset.illegal) := by decide

theorem witness_Indications_e4 : indicated { State.reset with checked := true } .e4 = true ∧ opcodeOf .nop ≠ 0x8 ∧
    Instr.nop ≠ .crcInit ∧ opcodeOf .nop ≠ 0x7 ∧ opcodeOf .nop ≠ 0x6 ∧ ¬ IsCrcBytes .nop := by decide

theorem witness_Indications_e5 : indicated { State.reset with lenOvf := true } .e5 = true ∧ Instr.nop ≠ .crcInit ∧
    opcodeOf .nop ≠ 0x7 := by decide

theorem witness_Indications_e6 : indicated { State.reset with illegal := true } .e6 = true ∧ Instr.nop ≠ .clrErr := by decide

/-- E4, E5 and E6 each newly raised by a command of its own. -/
theorem witness_NewlyRaised :
    (indicated State.reset .e4 = false ∧ indicated { State.reset with checked := true } .e4 = true ∧
      reads (exec (.crcCheck 1) State.reset) = reads (.next { State.reset with checked := true })) ∧
    (indicated (withCount 0xFFFFFFFF 0) .e5 = false ∧
      (reads (exec (.crcB1 0) (withCount 0xFFFFFFFF 0))).map (·.drop 5) = some [8]) ∧
    (indicated State.reset .e6 = false ∧ indicated (recordIllegal State.reset) .e6 = true) := by decide +kernel

theorem witness_ErrorCauses : IsCrcBytes (.crcB1 0x61) ∧ State.reset.lenOvf = false ∧ IsReserved .reservedA ∧
    IsReserved .reservedF := by decide

/-- The letters at the ends of R141's ranges, and the bytes next to them. -/
theorem witness_Letters : isLetter 0x41 = true ∧ isLetter 0x5A = true ∧ isLetter 0x61 = true ∧ isLetter 0x7A = true ∧
    isLetter 0x40 = false ∧ isLetter 0x5B = false ∧ isLetter 0x60 = false ∧ isLetter 0x7B = false := by decide

/-- One type code for each value of TERR. -/
theorem witness_TypeErrors : (flagsOf 0x52758074).getLsbD 13 = false ∧
    ((flagsOf 0x52753174).getLsbD 13 = true ∧ (flagsOf 0x52753174).getLsbD 12 = false) ∧
    ((flagsOf 0x52755374).getLsbD 13 = true ∧ (flagsOf 0x52755374).getLsbD 12 = true) := by decide

theorem witness_TypeReadsBack :
    { State.reset with host := [.beat (mkBeat 0x6 0xFF000180), .read false 3] }.host =
      .beat (mkBeat 0x6 0xFF000180) :: .read false 3 :: [] ∧
    { State.reset with host := [.beat (mkBeat 0x7 0xFF000180), .read false 3] }.phase = .ready := by decide

theorem witness_Invariant : Inv State.reset ∧ Inv (inResetState []) ∧ reads (step State.reset) = reads (.next State.reset) := by
  decide +kernel

end Sys2Proof.Tests
end

/-! PROOFS. The 32-bit pass of the CRC over a word's bytes (R108) and R6's residue. -/

namespace Sys2Proof.Machine

/-- R105's splitting law for the register. -/
theorem crc32Raw_append (c : Word) (a b : List Byte) : crc32Raw c (a ++ b) = crc32Raw (crc32Raw c a) b := by
  induction a generalizing c with
  | nil => rfl
  | cons x a ih => exact ih (absorb c x)

theorem crcBits_xor (n : Nat) (c d : Word) : crcBits n (c ^^^ d) = crcBits n c ^^^ crcBits n d := by
  induction n generalizing c d with
  | zero => rfl
  | succ n ih => simp only [crcBits, crcBit_xor, ih]

/-- While the bits that leave the register are zeros, the polynomial never enters. -/
theorem crcBits_of_low_clear (n : Nat) (c : Word) (h : ∀ k < n, c.getLsbD k = false) : crcBits n c = c >>> n := by
  induction n generalizing c with
  | zero => simp [crcBits]
  | succ n ih =>
    have hshift : ∀ k < n, (c >>> 1).getLsbD k = false := fun k hk => by
      rw [BitVec.getLsbD_ushiftRight]
      exact h (1 + k) (by omega)
    rw [crcBits, crcBit_of_even c (h 0 n.succ_pos), ih _ hshift, ← BitVec.shiftRight_add, Nat.add_comm]

/-- A word is its low byte and the bits above it. -/
theorem word_eq_lowByte_xor_high (w : Word) : w = (byteOf w 0).zeroExtend 32 ^^^ ((w >>> 8) <<< 8) := by
  apply BitVec.eq_of_getLsbD_eq
  intro k hk
  by_cases hlow : k < 8
  · simp [byteOf, hlow, hk]
  · have : 8 + (k - 8) = k := by omega
    simp [byteOf, hlow, hk, this]

theorem byteOf_shift (w : Word) (k : Nat) : byteOf (w >>> 8) k = byteOf w (k + 1) := by
  apply BitVec.eq_of_getLsbD_eq
  intro j _
  simp only [byteOf, BitVec.getLsbD_extractLsb', BitVec.getLsbD_ushiftRight]
  rw [show 8 + (8 * k + j) = 8 * (k + 1) + j by omega]

/-- Eight turns absorb the low byte of a word laid over the register; the rest of the word moves down and waits. -/
theorem crcBits_eight_xor (c w : Word) : crcBits 8 (c ^^^ w) = absorb c (byteOf w 0) ^^^ (w >>> 8) := by
  have hhigh : crcBits 8 ((w >>> 8) <<< 8) = w >>> 8 := by
    rw [crcBits_of_low_clear 8 _ (fun k hk => by simp [hk])]
    apply BitVec.eq_of_getLsbD_eq
    intro k hk
    simpa using BitVec.lt_of_getLsbD
  calc crcBits 8 (c ^^^ w)
      = crcBits 8 ((c ^^^ (byteOf w 0).zeroExtend 32) ^^^ ((w >>> 8) <<< 8)) := by
        rw [BitVec.xor_assoc, ← word_eq_lowByte_xor_high]
    _ = absorb c (byteOf w 0) ^^^ (w >>> 8) := by rw [crcBits_xor, hhigh, absorb]

/-- R108: 32 turns absorb a whole word, least-significant byte first. -/
theorem crcBits_word (c w : Word) :
    crcBits 32 (c ^^^ w) = crc32Raw c [byteOf w 0, byteOf w 1, byteOf w 2, byteOf w 3] := by
  have hgone : w >>> 8 >>> 8 >>> 8 >>> 8 = 0#32 := by
    simp only [← BitVec.shiftRight_add]
    exact BitVec.ushiftRight_eq_zero le_rfl
  rw [crcBits_add 8 24, crcBits_eight_xor, crcBits_add 8 16, crcBits_eight_xor, crcBits_add 8 8, crcBits_eight_xor,
    crcBits_eight_xor, hgone]
  simp only [byteOf_shift, crc32Raw_cons, crc32Raw_nil, BitVec.xor_zero, Nat.reduceAdd]

/-- R6's residue is what 32 turns make of `xorout`. -/
theorem crcBits_xorOut : crcBits 32 crcXorOut = 0xDEBB20E3 := by
  simp [crcBits, crcBit, crcPoly, crcXorOut]

/-- Settles O27: absorbing the checksum cancels the register and leaves `xorout`, whose 32 turns give the residue. -/
theorem residueAfterAMessageAndItsOwnCrc : Obligations.ResidueAfterAMessageAndItsOwnCrc := by
  intro s
  have hcancel : crc32Raw 0xFFFFFFFF s ^^^ crc32 s = crcXorOut := by
    rw [crc32, crcInitValue, ← BitVec.xor_assoc, BitVec.xor_self, BitVec.zero_xor]
  rw [crc32Raw_append, ← crcBits_word, hcancel]
  exact crcBits_xorOut

end Sys2Proof.Machine

/-! PROOFS. The family 10_state.md: the state after reset (R31), the bits of STATUS (R29), what each instruction writes (R23), and the
step with the invariant it keeps (R240, R248). -/

namespace Sys2Proof.Machine

/-! ### What an instruction can do. -/

/-- What an instruction can leave of a state, in the cases of R23's table. -/
inductive Effect (s : State) : Instr → State → Prop where
  | nop : Effect s .nop s
  | crcInit : Effect s .crcInit (startCrc crcInitValue s)
  | crcBytes {i : Instr} (h : IsCrcBytes i) : Effect s i (absorbBytes (streamBytes i) s)
  | typeLoad (t0 t1 t2 t3 : Byte) : Effect s (.typeLoad t0 t1 t2 t3) { s with typeCode := packWord t0 t1 t2 t3 }
  | chunkStart (t0 t1 t2 t3 : Byte) : Effect s (.chunkStart t0 t1 t2 t3)
      { startCrc (crc32Raw crcInitValue [t0, t1, t2, t3]) s with typeCode := packWord t0 t1 t2 t3 }
  | crcCheck (e : Word) : Effect s (.crcCheck e) { s with checked := true, matched := decide (crcOut s = e) }
  | clrErr : Effect s .clrErr (clearIllegal s)
  | reserved {i : Instr} (h : IsReserved i) : Effect s i (recordIllegal s)

theorem exec_of_crcBytes {i : Instr} (h : IsCrcBytes i) (s : State) : exec i s = .next (absorbBytes (streamBytes i) s) :=
  exec_of_stream i s (streamBytes_ne_nil h)

/-- R75: every instruction completes, with the effect of its row. -/
theorem exec_effect (i : Instr) (s : State) : ∃ t, exec i s = .next t ∧ Effect s i t := by
  cases i with
  | nop => exact ⟨_, rfl, .nop⟩
  | crcInit => exact ⟨_, rfl, .crcInit⟩
  | crcB1 | crcB2 | crcB3 | crcB4 => exact ⟨_, rfl, .crcBytes (by simp [IsCrcBytes, opcodeOf])⟩
  | typeLoad t0 t1 t2 t3 => exact ⟨_, rfl, .typeLoad t0 t1 t2 t3⟩
  | chunkStart t0 t1 t2 t3 => exact ⟨_, rfl, .chunkStart t0 t1 t2 t3⟩
  | crcCheck e => exact ⟨_, rfl, .crcCheck e⟩
  | clrErr => exact ⟨_, rfl, .clrErr⟩
  | reservedA | reservedB | reservedC | reservedD | reservedE | reservedF => exact ⟨_, rfl, .reserved (by decide)⟩

/-- The cases of R23's table for an instruction that is known to answer `t`. -/
theorem effect_of_exec {i : Instr} {s t : State} (h : exec i s = .next t) : Effect s i t := by
  obtain ⟨u, hu, heffect⟩ := exec_effect i s
  obtain rfl : u = t := by simpa [hu] using h
  exact heffect

/-! ### The command port by the phase of the block. -/

section
variable {s : State} (v : Bool) (b : Beat)

theorem clockEdge_rst (s : State) : clockEdge true v b s = .next (resetEdge s) := rfl

theorem clockEdge_of_unreset (h : s.phase = .unreset) : clockEdge false v b s = .next (drawElements s) := by
  simp [clockEdge, h]

theorem clockEdge_of_inReset (h : s.phase = .inReset) : clockEdge false v b s = .next { s with phase := .ready } := by
  simp [clockEdge, h]

theorem clockEdge_of_ready (h : s.phase = .ready) :
    clockEdge false v b s = if v then acceptBeat (decode b) s else .next s := by
  simp [clockEdge, h]

theorem clockEdge_of_busy {i : Instr} {left : Nat} (h : s.phase = .busy i left) :
    clockEdge false v b s = busyEdge i left s := by
  simp [clockEdge, h]

theorem issueBeat_of_unreset (h : s.phase = .unreset) : issueBeat b s = .next (drawElements s) := by
  simp [issueBeat, h]

theorem issueBeat_of_inReset (h : s.phase = .inReset) : issueBeat b s = exec (decode b) { s with phase := .ready } := by
  simp [issueBeat, h]

theorem issueBeat_of_ready (h : s.phase = .ready) : issueBeat b s = exec (decode b) s := by
  simp [issueBeat, h]

theorem issueBeat_of_busy {i : Instr} {left : Nat} (h : s.phase = .busy i left) :
    issueBeat b s = andThen (exec i { s with phase := .ready }) (exec (decode b)) := by
  simp [issueBeat, h]

end

/-- An accepted beat takes effect at once, or the busy window begins. -/
theorem acceptBeat_cases {i : Instr} {s t : State} (h : acceptBeat i s = .next t) :
    exec i s = .next t ∨ ∃ n, t = { s with phase := .busy i n } := by
  unfold acceptBeat at h
  split at h
  · exact .inl h
  · next n _ => exact .inr ⟨n, by injection h with h; exact h.symm⟩

/-- An edge of the busy window ends it with the instruction's effect, or brings its end nearer. -/
theorem busyEdge_cases {i : Instr} {left : Nat} {s t : State} (h : busyEdge i left s = .next t) :
    exec i { s with phase := .ready } = .next t ∨ ∃ n, t = { s with phase := .busy i n } := by
  cases left with
  | zero => exact .inl h
  | succ n => exact .inr ⟨n, by injection h with h; exact h.symm⟩

/-! ### The invariant. -/

/-- No instruction sets MATCH but CRC_CHECK, which sets CHECKED with it; and only what clears MATCH clears CHECKED (R23). -/
theorem exec_keeps_matched_only_checked {i : Instr} {s t : State} (hs : s.matched = true → s.checked = true)
    (h : exec i s = .next t) : t.matched = true → t.checked = true := by
  cases effect_of_exec h with
  | nop | typeLoad | clrErr | reserved => exact hs
  | crcCheck => exact fun _ => rfl
  | crcInit | crcBytes | chunkStart => simp

/-- An instruction keeps the invariant, wherever reset is over. -/
theorem exec_keeps_inv {i : Instr} {s t : State} (hs : Inv s) (hphase : s.phase ≠ .inReset) (h : exec i s = .next t) :
    Inv t := by
  obtain ⟨hmatched, -⟩ := hs
  obtain ⟨hp, -⟩ := exec_keeps_port h
  exact ⟨fun hu => exec_keeps_matched_only_checked (hmatched (hp ▸ hu)) h, fun hr => absurd (hp ▸ hr) hphase⟩

/-- After the first reset edge the block may go on to any phase but that of reset. -/
theorem inv_with_phase {s : State} {p : Phase} (hs : Inv s) (hreset : s.phase ≠ .unreset) (hp : p ≠ .inReset) :
    Inv { s with phase := p } :=
  ⟨fun _ => hs.1 hreset, fun h => absurd h hp⟩

theorem inv_resetEdge (s : State) : Inv (resetEdge s) :=
  ⟨fun _ h => by simp at h, fun _ => ⟨rfl, rfl, rfl, rfl, rfl, rfl, rfl⟩⟩

theorem inv_drawElements {s : State} (h : s.phase = .unreset) : Inv (drawElements s) :=
  ⟨fun hu => absurd h hu, fun hr => by simp [h] at hr⟩

/-- The invariant does not speak of the host's queue. -/
theorem inv_with_host (s : State) (q : List HostEvent) : Inv { s with host := q } ↔ Inv s := Iff.rfl

theorem inv_takeRead (r : Bool) (a : ReadAddr) (s : State) : Inv (takeRead r a s) ↔ Inv s := Iff.rfl

/-- The effect of an instruction at a block that has just become ready. -/
theorem exec_at_ready_keeps_inv {i : Instr} {s t : State} (hs : Inv s) (hreset : s.phase ≠ .unreset)
    (h : exec i { s with phase := .ready } = .next t) : Inv t :=
  exec_keeps_inv (inv_with_phase hs hreset (by simp)) (by simp) h

theorem acceptBeat_keeps_inv {i : Instr} {s t : State} (hs : Inv s) (hready : s.phase = .ready)
    (h : acceptBeat i s = .next t) : Inv t := by
  obtain h | ⟨n, rfl⟩ := acceptBeat_cases h
  · exact exec_keeps_inv hs (by simp [hready]) h
  · exact inv_with_phase hs (by simp [hready]) (by simp)

theorem busyEdge_keeps_inv {i : Instr} {left : Nat} {s t : State} (hs : Inv s) (hreset : s.phase ≠ .unreset)
    (h : busyEdge i left s = .next t) : Inv t := by
  obtain h | ⟨n, rfl⟩ := busyEdge_cases h
  · exact exec_at_ready_keeps_inv hs hreset h
  · exact inv_with_phase hs hreset (by simp)

theorem clockEdge_keeps_inv {r v : Bool} {b : Beat} {s t : State} (hs : Inv s) (h : clockEdge r v b s = .next t) :
    Inv t := by
  cases r with
  | true =>
    obtain rfl : resetEdge s = t := by simpa [clockEdge_rst] using h
    exact inv_resetEdge s
  | false =>
    cases hp : s.phase with
    | unreset =>
      obtain rfl : drawElements s = t := by simpa [clockEdge_of_unreset v b hp] using h
      exact inv_drawElements hp
    | inReset =>
      obtain rfl : { s with phase := .ready } = t := by simpa [clockEdge_of_inReset v b hp] using h
      exact inv_with_phase hs (by simp [hp]) (by simp)
    | ready =>
      rw [clockEdge_of_ready v b hp] at h
      cases v with
      | true => exact acceptBeat_keeps_inv hs hp h
      | false =>
        obtain rfl : s = t := by simpa using h
        exact hs
    | busy i left => exact busyEdge_keeps_inv hs (by simp [hp]) (clockEdge_of_busy v b hp ▸ h)

theorem issueBeat_keeps_inv {b : Beat} {s t : State} (hs : Inv s) (h : issueBeat b s = .next t) : Inv t := by
  cases hp : s.phase with
  | unreset =>
    obtain rfl : drawElements s = t := by simpa [issueBeat_of_unreset b hp] using h
    exact inv_drawElements hp
  | inReset => exact exec_at_ready_keeps_inv hs (by simp [hp]) (issueBeat_of_inReset b hp ▸ h)
  | ready => exact exec_keeps_inv hs (by simp [hp]) (issueBeat_of_ready b hp ▸ h)
  | busy i left =>
    obtain ⟨u, hu, -⟩ := exec_effect i { s with phase := .ready }
    obtain ⟨huphase, -⟩ := exec_keeps_port hu
    have hnext : exec (decode b) u = .next t := by simpa [issueBeat_of_busy b hp, hu] using h
    exact exec_keeps_inv (exec_at_ready_keeps_inv hs (by simp [hp]) hu) (by simp [huphase]) hnext

/-- Settles O60, by the host's next action: an idle edge, a beat, an edge or a read. -/
theorem everyStepKeepsTheInvariant : Obligations.EveryStepKeepsTheInvariant := by
  intro s t hs h
  cases hq : s.host with
  | nil => exact clockEdge_keeps_inv hs (step_of_idle hq ▸ h)
  | cons e rest =>
    have hrest : Inv { s with host := rest } := (inv_with_host s rest).2 hs
    cases e with
    | beat b => exact issueBeat_keeps_inv hrest (step_of_beat hq ▸ h)
    | edge r v b => exact clockEdge_keeps_inv hrest (step_of_edge hq ▸ h)
    | read r a =>
      obtain rfl : takeRead r a { s with host := rest } = t := by simpa [step_of_read hq] using h
      exact (inv_takeRead r a _).2 hrest

/-- Settles O59: the block after reset has MATCH at 0 and is no longer in reset. -/
theorem invariantHoldsAtReset : Obligations.InvariantHoldsAtReset :=
  ⟨fun _ h => absurd h Bool.false_ne_true, fun h => absurd h (by decide)⟩

/-! ### The writers of each element. -/

/-- R104: a CRC_Bn sets LEN_OVF or leaves it. -/
theorem absorbBytes_only_sets_lenOvf {bs : List Byte} {s : State} (h : (absorbBytes bs s).lenOvf ≠ s.lenOvf) :
    (absorbBytes bs s).lenOvf = true := by
  cases hs : s.lenOvf with
  | true => simp [hs]
  | false => simpa [hs] using h

/-- Settles O46: in each case of R23's table, what differs from the state before is what that row writes. -/
theorem elementsAreWrittenOnlyByTheirCommands : Obligations.ElementsAreWrittenOnlyByTheirCommands := by
  intro s i
  obtain ⟨t, ht, heffect⟩ := exec_effect i s
  refine ⟨t, ht, ?_⟩
  cases heffect with
  | nop | crcInit | clrErr => simp
  | crcBytes h =>
    have hwriter : i = .crcInit ∨ IsCrcBytes i ∨ opcodeOf i = 0x7 := .inr (.inl h)
    exact ⟨fun _ => hwriter, fun _ => hwriter, fun hne => absurd rfl hne, fun _ => .inr ⟨rfl, hwriter⟩,
      fun _ => .inr ⟨rfl, hwriter⟩, fun hne => .inl ⟨absorbBytes_only_sets_lenOvf hne, h⟩, fun hne => absurd rfl hne,
      exec_keeps_port ht⟩
  | typeLoad | chunkStart | crcCheck => simp [opcodeOf]
  | reserved h => simp [h]

/-! ### Reset values, STATUS and issued beats. -/

/-- Settles O1: the values of R31 by evaluation, and CRC_INIT by what `startCrc` leaves. -/
theorem resetStateHasTheSpecifiedValues : Obligations.ResetStateHasTheSpecifiedValues := by
  refine ⟨rfl, rfl, rfl, rfl, rfl, rfl, rfl, by decide, by decide, by decide, rfl, fun s htype hillegal => ?_⟩
  exact ⟨startCrc crcInitValue s, rfl, rfl, rfl, htype, rfl, rfl, rfl, hillegal⟩

/-- A field of one bit laid below the others is the library's `concat`. -/
theorem append_bit {n : Nat} (x : BitVec n) (c : Bool) : x ++ bit c = x.concat c := rfl

/-- Settles O55: STATUS is zeros with one bit after the other laid below them. -/
theorem statusFieldsAreTheSpecifiedBits : Obligations.StatusFieldsAreTheSpecifiedBits := by
  intro s
  simp only [statusOf, append_bit]
  refine ⟨by simp, by simp, by simp [mismatch], by simp, by simp, fun k hk => ?_⟩
  obtain ⟨j, rfl⟩ := Nat.exists_eq_add_of_le' hk
  simp

/-- Settles O5, by the phase of the block; a beat still executing completes. -/
theorem stepRunsTheDecodedInstruction : Obligations.StepRunsTheDecodedInstruction := by
  intro s b rest hq
  rw [step_of_beat hq]
  refine ⟨fun hp => issueBeat_of_ready b hp, fun i left hp => ?_, fun hp => issueBeat_of_inReset b hp⟩
  obtain ⟨u, hu, -⟩ := exec_effect i { s with phase := .ready, host := rest }
  refine ⟨u, hu, ?_⟩
  calc issueBeat b { s with host := rest }
      = andThen (exec i { s with phase := .ready, host := rest }) (exec (decode b)) := issueBeat_of_busy b hp
    _ = exec (decode b) u := by rw [hu, andThen_next]

end Sys2Proof.Machine

/-! PROOFS. The family 20_memory.md: the busy window (R56, R245), a beat edge by edge (R248), beats in issue order (R62) and the read
registers (R52, R53). -/

namespace Sys2Proof.Machine

/-! ### Runs of steps. -/

theorem andThen_pure (o : Host.Outcome State Fault Refusal) : andThen o .next = o := by
  cases o <;> rfl

theorem andThen_assoc (o : Host.Outcome State Fault Refusal) (f g : State → Host.Outcome State Fault Refusal) :
    andThen (andThen o f) g = andThen o (fun s => andThen (f s) g) := by
  cases o <;> rfl

theorem runSteps_one (s : State) : runSteps 1 s = step s := andThen_pure (step s)

/-- The last step of a run, taken apart from those before it. -/
theorem runSteps_succ_last (k : Nat) (s : State) : runSteps (k + 1) s = andThen (runSteps k s) step := by
  induction k generalizing s with
  | zero => exact runSteps_one s
  | succ k ih =>
    calc runSteps (k + 1 + 1) s
        = andThen (step s) (fun t => andThen (runSteps k t) step) := congrArg (andThen (step s)) (funext ih)
      _ = andThen (runSteps (k + 1) s) step := (andThen_assoc _ _ _).symm

/-! ### The busy window. -/

section
variable {s : State} {i : Instr} {levels : List (Bool × Beat)} {rest : List HostEvent}

/-- An edge of the busy window is the same whatever the command ports show. -/
theorem step_of_edges_busy {left k : Nat} (hk : k < levels.length) (hp : s.phase = .busy i left)
    (hq : s.host = edges (levels.drop k) ++ rest) :
    step s = busyEdge i left { s with host := edges (levels.drop (k + 1)) ++ rest } := by
  have hedge : s.host = .edge false levels[k].1 levels[k].2 :: (edges (levels.drop (k + 1)) ++ rest) := by
    rw [hq, List.drop_eq_getElem_cons hk]
    rfl
  exact (step_of_edge hedge).trans (clockEdge_of_busy _ _ hp)

/-- R56: inside the window the edges only bring its end nearer. -/
theorem runSteps_inside_window {left k : Nat} (hk : k ≤ left) (hp : s.phase = .busy i left)
    (hlen : levels.length = left + 1) (hq : s.host = edges levels ++ rest) :
    runSteps k s = .next { s with phase := .busy i (left - k), host := edges (levels.drop k) ++ rest } := by
  induction k with
  | zero => simp [← hp, ← hq]
  | succ k ih =>
    have hleft : left - k = left - (k + 1) + 1 := by omega
    rw [runSteps_succ_last, ih (by omega), andThen_next, step_of_edges_busy (by omega) rfl rfl, hleft]
    rfl

/-- R56, R245: the last edge of the window makes all the writes at once. -/
theorem runSteps_busy_window {left : Nat} (hp : s.phase = .busy i left) (hlen : levels.length = left + 1)
    (hq : s.host = edges levels ++ rest) :
    runSteps (left + 1) s = exec i { s with phase := .ready, host := rest } := by
  have hnone : levels.drop (left + 1) = [] := List.drop_eq_nil_of_le (by omega)
  rw [runSteps_succ_last, runSteps_inside_window le_rfl hp hlen hq, andThen_next, step_of_edges_busy (by omega) rfl rfl,
    Nat.sub_self, hnone]
  rfl

end

theorem cmdReady_of_busy {s : State} {i : Instr} {left : Nat} (h : s.phase = .busy i left) (r : Bool) :
    cmdReady s r = false := by
  simp [cmdReady, h]

/-- Settles O7, by what the edges inside the window leave and by what its last edge does. -/
theorem busyWindowEndsWithTheWholeEffect : Obligations.BusyWindowEndsWithTheWholeEffect := by
  intro s i left levels rest hp hlen hq
  have hinside (k : Nat) (hk : k ≤ left) := runSteps_inside_window hk hp hlen hq
  exact ⟨fun k hk => ⟨_, hinside k hk, ⟨rfl, rfl, rfl, rfl, rfl, rfl, rfl⟩, rfl, cmdReady_of_busy rfl⟩,
    runSteps_busy_window hp hlen hq⟩

/-! ### A beat edge by edge. -/

/-- R71: only the opcode bits select the row, and the row is that of the opcode, for each of the sixteen. -/
theorem opcodeOf_decodeFields (op : Opcode) (d : Word) : opcodeOf (decodeFields op d) = op := by
  have hdata : opcodeOf (decodeFields op d) = opcodeOf (decodeFields op 0) := by
    unfold decodeFields
    split <;> rfl
  have hrow : ∀ op : Opcode, opcodeOf (decodeFields op 0) = op := by decide
  exact hdata.trans (hrow op)

theorem opcodeOf_decode (b : Beat) : opcodeOf (decode b) = beatOp b := opcodeOf_decodeFields _ _

theorem acceptBeat_of_one_cycle {i : Instr} (h : Config.extraCycles (opcodeOf i) = 0) (s : State) :
    acceptBeat i s = exec i s := by
  simp [acceptBeat, h]

theorem acceptBeat_of_more_cycles {i : Instr} {n : Nat} (h : Config.extraCycles (opcodeOf i) = n + 1) (s : State) :
    acceptBeat i s = .next { s with phase := .busy i n } := by
  simp [acceptBeat, h]

/-- Settles O8: the accepting edge is the whole effect where `T_CMD` is 1, else it opens the window that the further edges close. -/
theorem acceptedBeatOverItsCyclesEqualsOneStep : Obligations.AcceptedBeatOverItsCyclesEqualsOneStep := by
  intro s b levels rest hp hlen hq
  have haccept : step s = acceptBeat (decode b) { s with host := edges levels ++ rest } :=
    (step_of_edge hq).trans (clockEdge_of_ready true b hp)
  have hissue : step { s with host := .beat b :: rest } = exec (decode b) { s with host := rest } :=
    (step_of_beat rfl).trans (issueBeat_of_ready b hp)
  rw [hissue, Config.tCmd, runSteps_succ, haccept]
  have hlevels : levels.length = Config.extraCycles (beatOp b) := Nat.succ.inj hlen
  cases hextra : Config.extraCycles (beatOp b) with
  | zero =>
    obtain rfl : levels = [] := List.length_eq_zero_iff.1 (hlevels.trans hextra)
    rw [acceptBeat_of_one_cycle (by rwa [opcodeOf_decode])]
    exact andThen_pure _
  | succ n =>
    rw [acceptBeat_of_more_cycles (by rwa [opcodeOf_decode]), andThen_next,
      runSteps_busy_window rfl (hlevels.trans hextra) rfl, ← hp]

/-! ### The read registers. -/

/-- R52, R59: a valid read takes the selected register and leaves the rest of the state. -/
theorem step_of_valid_read {s : State} {a : ReadAddr} {rest : List HostEvent} (hp : s.phase = .ready)
    (hq : s.host = .read false a :: rest) : step s = .next { s with host := rest, sampled := some (readReg s a) } := by
  have hvalue : rdData { s with host := rest } false a = readReg s a := rdData_of_valid _ a hp
  have hvalid : readValid { s with host := rest } false = true := (readValid_iff _ _).2 ⟨hp, rfl⟩
  rw [step_of_read hq]
  simp only [takeRead, hvalue, hvalid, if_true]

/-- Settles O9, by the register map at each address. -/
theorem validReadReturnsTheSelectedRegister : Obligations.ValidReadReturnsTheSelectedRegister := by
  intro s a rest hp hq
  refine ⟨readReg s a, step_of_valid_read hp hq, ?_, ?_, ?_, ?_, ?_, ?_, ?_, ?_⟩ <;> (rintro rfl; rfl)

/-! ### Beats in issue order. -/

/-- R75: a sequence completes, with the handshake and the host's queue as they were. -/
theorem execAll_completes (is : List Instr) (s : State) :
    ∃ t, execAll is s = .next t ∧ t.phase = s.phase ∧ t.host = s.host := by
  induction is generalizing s with
  | nil => exact ⟨s, rfl, rfl, rfl⟩
  | cons i is ih =>
    obtain ⟨u, hu, -⟩ := exec_effect i s
    obtain ⟨hphase, hhost, -⟩ := exec_keeps_port hu
    obtain ⟨t, ht, htphase, hthost⟩ := ih u
    exact ⟨t, by rw [execAll_cons, hu, andThen_next, ht], htphase.trans hphase, hthost.trans hhost⟩

/-- What an instruction answers does not depend on the host's queue. -/
theorem exec_with_host {i : Instr} {s t : State} (h : exec i s = .next t) (q : List HostEvent) :
    exec i { s with host := q } = .next { t with host := q } := by
  obtain ⟨hphase, -⟩ := exec_keeps_port h
  simpa [h, ← hphase] using exec_with_port i s s.phase q

/-- R62: the steps of the beats at the front of the host's queue are their instructions in issue order. -/
theorem runSteps_of_beats (p : List Beat) (q : List HostEvent) {s : State} (hp : s.phase = .ready) :
    runSteps p.length { s with host := p.map .beat ++ q } = execAll (p.map decode) { s with host := q } := by
  induction p generalizing s with
  | nil => rfl
  | cons b p ih =>
    obtain ⟨t, ht, -⟩ := exec_effect (decode b) s
    obtain ⟨hphase, -⟩ := exec_keeps_port ht
    have hstep : step { s with host := (b :: p).map .beat ++ q } = .next { t with host := p.map .beat ++ q } :=
      calc step { s with host := (b :: p).map .beat ++ q }
          = issueBeat b { s with host := p.map .beat ++ q } := step_of_beat rfl
        _ = exec (decode b) { s with host := p.map .beat ++ q } := issueBeat_of_ready b hp
        _ = .next { t with host := p.map .beat ++ q } := exec_with_host ht _
    rw [List.length_cons, runSteps_succ, hstep, andThen_next, ih (hphase.trans hp), List.map_cons, execAll_cons,
      exec_with_host ht, andThen_next]

/-- Settles O11: the beats run as their instructions, and the read after them is valid. -/
theorem readAfterBeatsSeesEveryBeat : Obligations.ReadAfterBeatsSeesEveryBeat := by
  intro s p a rest hp hq
  obtain ⟨u, hu, huphase, huhost⟩ := execAll_completes (p.map decode) { s with host := .read false a :: rest }
  have hrun : runSteps p.length s = .next u := by
    rw [← hu, ← runSteps_of_beats p _ hp, ← hq]
  exact ⟨u, hu, hrun, by rw [runSteps_succ_last, hrun, andThen_next, step_of_valid_read (huphase.trans hp) huhost]⟩

end Sys2Proof.Machine

/-! PROOFS. The family 30_encoding.md: beats and instructions (R70 to R75), the assembler (R76, R77) and the pseudo-instructions with
the bytes they emit (R78). -/

namespace Sys2Proof.Machine

/-! ### Words as bytes, beats as fields. -/

section
variable (b0 b1 b2 b3 : Byte)

@[simp] theorem byteOf_packWord_zero : byteOf (packWord b0 b1 b2 b3) 0 = b3 :=
  BitVec.extractLsb'_append_eq_right

@[simp] theorem byteOf_packWord_one : byteOf (packWord b0 b1 b2 b3) 1 = b2 :=
  (BitVec.extractLsb'_append_eq_of_le (by decide)).trans BitVec.extractLsb'_append_eq_right

@[simp] theorem byteOf_packWord_two : byteOf (packWord b0 b1 b2 b3) 2 = b1 :=
  (BitVec.extractLsb'_append_eq_of_le (by decide)).trans
    ((BitVec.extractLsb'_append_eq_of_le (by decide)).trans BitVec.extractLsb'_append_eq_right)

@[simp] theorem byteOf_packWord_three : byteOf (packWord b0 b1 b2 b3) 3 = b0 :=
  (BitVec.extractLsb'_append_eq_of_le (by decide)).trans
    ((BitVec.extractLsb'_append_eq_of_le (by decide)).trans BitVec.extractLsb'_append_eq_left)

end

/-- A word is its four bytes (R10). -/
theorem packWord_byteOf (w : Word) : packWord (byteOf w 3) (byteOf w 2) (byteOf w 1) (byteOf w 0) = w := by
  have h32 : byteOf w 3 ++ byteOf w 2 = w.extractLsb' 16 16 := BitVec.extractLsb'_append_extractLsb'_eq_extractLsb' rfl
  have h321 : w.extractLsb' 16 16 ++ byteOf w 1 = w.extractLsb' 8 24 :=
    BitVec.extractLsb'_append_extractLsb'_eq_extractLsb' rfl
  have hall : w.extractLsb' 8 24 ++ byteOf w 0 = w := BitVec.extractLsb'_append_extractLsb'
  rw [packWord, h32, h321, hall]

theorem packWord_and (a0 a1 a2 a3 m0 m1 m2 m3 : Byte) :
    packWord a0 a1 a2 a3 &&& packWord m0 m1 m2 m3 = packWord (a0 &&& m0) (a1 &&& m1) (a2 &&& m2) (a3 &&& m3) := by
  simp only [packWord, ← BitVec.and_append]

/-- A mask of whole bytes keeps or clears each byte. -/
theorem and_packWord (w : Word) (m0 m1 m2 m3 : Byte) :
    w &&& packWord m0 m1 m2 m3 =
      packWord (byteOf w 3 &&& m0) (byteOf w 2 &&& m1) (byteOf w 1 &&& m2) (byteOf w 0 &&& m3) := by
  rw [← packWord_and, packWord_byteOf]

@[simp] theorem beatOp_mkBeat (op : Opcode) (d : Word) : beatOp (mkBeat op d) = op := BitVec.extractLsb'_append_eq_left

@[simp] theorem beatData_mkBeat (op : Opcode) (d : Word) : beatData (mkBeat op d) = d := BitVec.extractLsb'_append_eq_right

/-- A beat is its two fields (R70). -/
theorem mkBeat_beatOp_beatData (b : Beat) : mkBeat (beatOp b) (beatData b) = b := BitVec.extractLsb'_append_extractLsb'

theorem decode_mkBeat (op : Opcode) (d : Word) : decode (mkBeat op d) = decodeFields op d := by
  rw [decode, beatOp_mkBeat, beatData_mkBeat]

/-! ### The opcode map (R72, R73). -/

section
variable (d : Word)

@[simp] theorem decodeFields_nop : decodeFields 0x0#4 d = .nop := rfl
@[simp] theorem decodeFields_crcInit : decodeFields 0x1#4 d = .crcInit := rfl
@[simp] theorem decodeFields_crcB1 : decodeFields 0x2#4 d = .crcB1 (byteOf d 0) := rfl
@[simp] theorem decodeFields_crcB2 : decodeFields 0x3#4 d = .crcB2 (byteOf d 1) (byteOf d 0) := rfl
@[simp] theorem decodeFields_crcB3 : decodeFields 0x4#4 d = .crcB3 (byteOf d 2) (byteOf d 1) (byteOf d 0) := rfl
@[simp] theorem decodeFields_crcB4 :
    decodeFields 0x5#4 d = .crcB4 (byteOf d 3) (byteOf d 2) (byteOf d 1) (byteOf d 0) := rfl
@[simp] theorem decodeFields_typeLoad :
    decodeFields 0x6#4 d = .typeLoad (byteOf d 3) (byteOf d 2) (byteOf d 1) (byteOf d 0) := rfl
@[simp] theorem decodeFields_chunkStart :
    decodeFields 0x7#4 d = .chunkStart (byteOf d 3) (byteOf d 2) (byteOf d 1) (byteOf d 0) := rfl
@[simp] theorem decodeFields_crcCheck : decodeFields 0x8#4 d = .crcCheck d := rfl
@[simp] theorem decodeFields_clrErr : decodeFields 0x9#4 d = .clrErr := rfl
@[simp] theorem decodeFields_reservedA : decodeFields 0xA#4 d = .reservedA := rfl
@[simp] theorem decodeFields_reservedB : decodeFields 0xB#4 d = .reservedB := rfl
@[simp] theorem decodeFields_reservedC : decodeFields 0xC#4 d = .reservedC := rfl
@[simp] theorem decodeFields_reservedD : decodeFields 0xD#4 d = .reservedD := rfl
@[simp] theorem decodeFields_reservedE : decodeFields 0xE#4 d = .reservedE := rfl
@[simp] theorem decodeFields_reservedF : decodeFields 0xF#4 d = .reservedF := rfl

end

/-- Settles O16, by the rows of the opcode map: a byte of the operand word is the bits that R73 gives it. -/
theorem opcodeMapIsTheSpecifiedOne : Obligations.OpcodeMapIsTheSpecifiedOne := by
  intro d
  simp only [decode_mkBeat]
  exact ⟨rfl, rfl, rfl, rfl, rfl, rfl, rfl, rfl, rfl, rfl, rfl, rfl, rfl, rfl, rfl, rfl⟩

/-! ### Decoding and encoding. -/

/-- The row that an instruction's opcode selects takes the instruction's bytes out of its operand word. -/
theorem decode_encode (i : Instr) : decode (encode i) = i := by
  rw [encode, decode_mkBeat]
  cases i with
  | nop | crcInit | clrErr => rfl
  | reservedA | reservedB | reservedC | reservedD | reservedE | reservedF => rfl
  | crcCheck e => exact decodeFields_crcCheck e
  | crcB1 | crcB2 | crcB3 | crcB4 | typeLoad | chunkStart => simp [opcodeOf, dataOf]

/-- Settles O13, by the rows of the opcode map. -/
theorem decodeOfEncodeIsTheInstruction : Obligations.DecodeOfEncodeIsTheInstruction := decode_encode

@[simp] theorem byte_and_ones (b : Byte) : b &&& 0xFF#8 = b := BitVec.and_allOnes

@[simp] theorem word_and_ones (w : Word) : w &&& 0xFFFFFFFF#32 = w := BitVec.and_allOnes

/-! The operand bits that each form uses, as whole bytes (R73, R74). -/

theorem usedData_crcB1 : beatData (usedBits 0x2#4) = packWord 0 0 0 0xFF := by decide

theorem usedData_crcB2 : beatData (usedBits 0x3#4) = packWord 0 0 0xFF 0xFF := by decide

theorem usedData_crcB3 : beatData (usedBits 0x4#4) = packWord 0 0xFF 0xFF 0xFF := by decide

theorem usedData_whole {op : Opcode} (h : 0x5 ≤ op.toNat ∧ op.toNat ≤ 0x8) : beatData (usedBits op) = 0xFFFFFFFF#32 := by
  revert op; decide

/-- R74: the operand word of a decoded instruction is that of the beat with the ignored bits zero. -/
theorem dataOf_decodeFields (op : Opcode) (d : Word) : dataOf (decodeFields op d) = d &&& beatData (usedBits op) := by
  obtain ⟨i, hi⟩ : ∃ i, decodeFields op d = i := ⟨_, rfl⟩
  obtain rfl : opcodeOf i = op := hi ▸ opcodeOf_decodeFields op d
  cases i with
  | nop | crcInit | clrErr => exact BitVec.and_zero.symm
  | reservedA | reservedB | reservedC | reservedD | reservedE | reservedF => exact BitVec.and_zero.symm
  | crcB1 => simp [opcodeOf, dataOf, usedData_crcB1, and_packWord]
  | crcB2 => simp [opcodeOf, dataOf, usedData_crcB2, and_packWord]
  | crcB3 => simp [opcodeOf, dataOf, usedData_crcB3, and_packWord]
  | crcB4 | typeLoad | chunkStart | crcCheck => simp [opcodeOf, dataOf, usedData_whole, packWord_byteOf]

/-- The opcode is used in every beat. -/
theorem usedBits_eq (op : Opcode) : usedBits op = mkBeat (BitVec.allOnes 4) (beatData (usedBits op)) := by
  revert op; decide

/-- The ignored bits of a beat are bits of its operand word. -/
theorem mkBeat_and_usedBits (op : Opcode) (d : Word) :
    mkBeat op d &&& usedBits op = mkBeat op (d &&& beatData (usedBits op)) := by
  calc mkBeat op d &&& usedBits op
      = mkBeat op d &&& mkBeat (BitVec.allOnes 4) (beatData (usedBits op)) := by rw [← usedBits_eq]
    _ = mkBeat (op &&& BitVec.allOnes 4) (d &&& beatData (usedBits op)) := BitVec.and_append
    _ = mkBeat op (d &&& beatData (usedBits op)) := by rw [BitVec.and_allOnes]

/-- R77: an assembler's beat for what `b` decodes to is `b` with its ignored bits zero. -/
theorem encode_decode (b : Beat) : encode (decode b) = b &&& usedBits (beatOp b) := by
  calc encode (decode b)
      = mkBeat (beatOp b) (beatData b &&& beatData (usedBits (beatOp b))) := by
        rw [encode, opcodeOf_decode, decode, dataOf_decodeFields]
    _ = b &&& usedBits (beatOp b) := by rw [← mkBeat_and_usedBits, mkBeat_beatOp_beatData]

/-- Settles O14, by the two fields of the beat. -/
theorem encodeOfDecodeKeepsTheUsedBits : Obligations.EncodeOfDecodeKeepsTheUsedBits := encode_decode

/-- Settles O15: beats with the same used bits decode to instructions of the same encoding, which decoding tells apart. -/
theorem ignoredBitsHaveNoEffect : Obligations.IgnoredBitsHaveNoEffect := by
  intro b b' h
  have hdecode : decode b = decode b' :=
    calc decode b = decode (encode (decode b)) := (decode_encode _).symm
      _ = decode (encode (decode b')) := by rw [encode_decode, h, ← encode_decode]
      _ = decode b' := decode_encode _
  exact ⟨hdecode, fun s => by rw [hdecode]⟩

/-- Settles O22: two encodings, and CLR_ERR after what CRC_INIT starts. -/
theorem restartIsInitThenClear : Obligations.RestartIsInitThenClear := ⟨by decide, fun _ => rfl⟩

/-- Settles O17, by running the assembler and the decoder on the eleven lines. -/
theorem workedEncodingsAssembleAndDecode : Obligations.WorkedEncodingsAssembleAndDecode := by
  unfold Obligations.WorkedEncodingsAssembleAndDecode
  decide +kernel

/-! ### Operands and commands (R76, R77). -/

/-- The number an operand stands for: zero for none (R77), and the number of its characters for a string (R76). -/
def operandValue : Operand → Nat
  | .absent => 0
  | .number v => v
  | .text cs => textNumber cs

/-- How many operand bits a form uses (R73). -/
def operandBits : OperandForm → Nat
  | .none => 0
  | .bytes n => 8 * n
  | .type4 => 32
  | .cmp32 => 32

theorem asmNumber_eq_ok_iff {bound v : Nat} {d : Word} :
    asmNumber bound v = .ok d ↔ v < bound ∧ BitVec.ofNat 32 v = d := by
  unfold asmNumber
  split <;> simp [*]

theorem asmText_eq_ok_iff {n : Nat} {cs : List Char} {d : Word} :
    asmText n cs = .ok d ↔ (cs.length = n ∧ asciiText cs = true) ∧ BitVec.ofNat 32 (textNumber cs) = d := by
  unfold asmText
  split
  · split <;> simp [*]
  · simp [*]

/-- R76: an operand assembles in a form if and only if the form admits it, and its word is its number. -/
theorem asmOperand_eq_ok_iff {f : OperandForm} {o : Operand} {d : Word} :
    asmOperand f o = .ok d ↔ o.wf f = true ∧ BitVec.ofNat 32 (operandValue o) = d := by
  cases o with
  | absent => cases f <;> simp [asmOperand, Operand.wf, operandValue]
  | number v => cases f <;> simp [asmOperand, Operand.wf, operandValue, asmNumber_eq_ok_iff]
  | text cs => cases f <;> simp [asmOperand, Operand.wf, operandValue, asmText_eq_ok_iff]

/-- A character of an ASCII string is one more byte of its number. -/
theorem textNumber_append_singleton (cs : List Char) (c : Char) : textNumber (cs ++ [c]) = 256 * textNumber cs + c.toNat := by
  simp [textNumber]

theorem textNumber_lt {cs : List Char} (h : asciiText cs = true) : textNumber cs < 2 ^ (8 * cs.length) := by
  induction cs using List.reverseRecOn with
  | nil => simp [textNumber]
  | append_singleton cs c ih =>
    obtain ⟨hcs, hc⟩ : asciiText cs = true ∧ c.toNat < 0x80 := by simpa [asciiText] using h
    have hlt := ih hcs
    rw [textNumber_append_singleton, List.length_append, List.length_singleton, Nat.mul_add, Nat.pow_add]
    omega

/-- An operand that a form admits fits in the operand bits that the form uses. -/
theorem operandValue_lt {f : OperandForm} {o : Operand} (h : o.wf f = true) : operandValue o < 2 ^ operandBits f := by
  cases o with
  | absent => exact Nat.two_pow_pos _
  | number v =>
    cases f with
    | none => simp [Operand.wf] at h
    | bytes | type4 | cmp32 => simpa [Operand.wf, operandValue, operandBits] using h
  | text cs =>
    cases f with
    | none | cmp32 => simp [Operand.wf] at h
    | bytes n | type4 =>
      obtain ⟨hlen, hascii⟩ : cs.length = _ ∧ asciiText cs = true := by simpa [Operand.wf] using h
      simpa [operandValue, operandBits, hlen] using textNumber_lt hascii

theorem asmCommand_eq_ok_iff {m : Mnemonic} {o : Operand} {b : Beat} :
    asmCommand m o = .ok b ↔ o.wf m.form = true ∧ mkBeat (mnemonicOpcode m) (BitVec.ofNat 32 (operandValue o)) = b := by
  unfold asmCommand
  cases ho : asmOperand m.form o with
  | ok d =>
    obtain ⟨hwf, rfl⟩ := asmOperand_eq_ok_iff.1 ho
    simp [hwf]
  | error e =>
    have : o.wf m.form ≠ true := fun hwf => by simp [asmOperand_eq_ok_iff.2 ⟨hwf, rfl⟩] at ho
    simp [this]

theorem assemble_command_eq_ok_iff {m : Mnemonic} {o : Operand} {p : List Beat} :
    assemble (.command m o) = .ok p ↔ ∃ b, asmCommand m o = .ok b ∧ [b] = p := by
  simp only [assemble]
  cases asmCommand m o <;> simp

theorem assemble_crcStr_eq_ok_iff {s : List Char} {p : List Beat} :
    assemble (.crcStr s) = .ok p ↔ asciiText s = true ∧ (payloadInstrs (textBytes s)).map encode = p := by
  cases h : asciiText s <;> simp [assemble, h]

/-- R78: CHUNK_CRC emits CHUNK_START of its type string and then what CRC_STR emits. -/
theorem assemble_chunkCrc_eq_ok_iff {t s : List Char} {p : List Beat} :
    assemble (.chunkCrc t s) = .ok p ↔
      ∃ b q, asmCommand .chunkStart (.text t) = .ok b ∧ assemble (.crcStr s) = .ok q ∧ b :: q = p := by
  simp only [assemble]
  cases asmCommand .chunkStart (.text t) with
  | error e => simp
  | ok b => cases asciiText s <;> simp

/-- A test decides whether a value is answered or an error. -/
theorem exists_ite_eq_ok_iff {ε α : Type} {c : Prop} [Decidable c] {x : α} {e : ε} :
    (∃ p, (if c then .ok x else .error e : Except ε α) = .ok p) ↔ c := by
  split <;> simp [*]

/-- Settles O18, by the kind of statement. -/
theorem assemblerAcceptsExactlyTheWellFormed : Obligations.AssemblerAcceptsExactlyTheWellFormed := by
  intro st
  cases st with
  | command m o => simp [Stmt.wf, assemble_command_eq_ok_iff, asmCommand_eq_ok_iff]
  | beat v => simp [Stmt.wf, assemble, exists_ite_eq_ok_iff]
  | crcStr s => simp [Stmt.wf, assemble_crcStr_eq_ok_iff]
  | crcHex bs => simp [Stmt.wf, assemble, exists_ite_eq_ok_iff]
  | chunkCrc t s =>
    simp [Stmt.wf, Operand.wf, Mnemonic.form, assemble_chunkCrc_eq_ok_iff, asmCommand_eq_ok_iff, assemble_crcStr_eq_ok_iff]
  | restart => simp [Stmt.wf, assemble]

/-- R73, R74: a form uses the low bits of the operand word. -/
theorem usedData_mnemonicOpcode (m : Mnemonic) :
    beatData (usedBits (mnemonicOpcode m)) = BitVec.ofNat 32 (2 ^ operandBits m.form - 1) := by
  cases m <;> decide

theorem operandBits_le (m : Mnemonic) : operandBits m.form ≤ 32 := by
  cases m <;> decide

/-- R77: the beat of a command has zeros in its ignored bits. -/
theorem assembled_and_usedBits {m : Mnemonic} {o : Operand} (h : o.wf m.form = true) :
    mkBeat (mnemonicOpcode m) (BitVec.ofNat 32 (operandValue o)) &&& usedBits (mnemonicOpcode m) =
      mkBeat (mnemonicOpcode m) (BitVec.ofNat 32 (operandValue o)) := by
  rw [mkBeat_and_usedBits, usedData_mnemonicOpcode, ← BitVec.ofNat_and, Nat.and_two_pow_sub_one_eq_mod,
    Nat.mod_eq_of_lt (operandValue_lt h)]

/-- Settles O19: the operand's number fits in the used bits, and what keeps its used bits encodes what it decodes to. -/
theorem assembledCommandHasItsOpcodeAndItsOperand : Obligations.AssembledCommandHasItsOpcodeAndItsOperand := by
  intro m o p h
  obtain ⟨b, hb, rfl⟩ := assemble_command_eq_ok_iff.1 h
  obtain ⟨hwf, rfl⟩ := asmCommand_eq_ok_iff.1 hb
  have hlt : operandValue o < 2 ^ 32 :=
    (operandValue_lt hwf).trans_le (Nat.pow_le_pow_right Nat.two_pos (operandBits_le m))
  refine ⟨_, rfl, ?_, ?_, ?_, ?_, ?_⟩
  · cases m <;> simp [mnemonicOpcode]
  · rintro rfl
    simp [operandValue]
  · rintro v rfl
    rw [beatData_mkBeat]
    exact (BitVec.toNat_ofNat v 32).trans (Nat.mod_eq_of_lt hlt)
  · rw [beatOp_mkBeat, assembled_and_usedBits hwf]
  · rw [encode_decode, beatOp_mkBeat, assembled_and_usedBits hwf]

/-! ### Quoted strings (R76). -/

theorem packWord_toNat (b0 b1 b2 b3 : Byte) :
    (packWord b0 b1 b2 b3).toNat = 256 * (256 * (256 * b0.toNat + b1.toNat) + b2.toNat) + b3.toNat := by
  simp only [packWord, BitVec.toNat_append]
  rw [← Nat.shiftLeft_add_eq_or_of_lt b1.isLt, ← Nat.shiftLeft_add_eq_or_of_lt b2.isLt,
    ← Nat.shiftLeft_add_eq_or_of_lt b3.isLt]
  simp only [Nat.shiftLeft_eq]
  omega

/-- Four byte numbers in order are one number, the first most significant. -/
theorem packWord_ofNat (n0 : Nat) {n1 n2 n3 : Nat} (h1 : n1 < 256) (h2 : n2 < 256) (h3 : n3 < 256) :
    packWord (BitVec.ofNat 8 n0) (BitVec.ofNat 8 n1) (BitVec.ofNat 8 n2) (BitVec.ofNat 8 n3) =
      BitVec.ofNat 32 (256 * (256 * (256 * n0 + n1) + n2) + n3) := by
  apply BitVec.eq_of_toNat_eq
  simp only [packWord_toNat, BitVec.toNat_ofNat]
  omega

/-- A command with an admitted string is the encoding of the instruction of its opcode whose operand word is the string's number. -/
theorem assemble_text {m : Mnemonic} {cs : List Char} {i : Instr} (hwf : (Operand.text cs).wf m.form = true)
    (hop : mnemonicOpcode m = opcodeOf i) (hdata : dataOf i = BitVec.ofNat 32 (textNumber cs)) :
    assemble (.command m (.text cs)) = .ok [encode i] := by
  refine assemble_command_eq_ok_iff.2 ⟨_, asmCommand_eq_ok_iff.2 ⟨hwf, ?_⟩, rfl⟩
  rw [encode, hop, hdata, operandValue]

/-- Settles O20: in each form the operand word is the string's characters behind zero bytes. -/
theorem quotedStringPutsTheFirstCharacterFirst : Obligations.QuotedStringPutsTheFirstCharacterFirst := by
  intro c0 c1 c2 c3 h0 h1 h2 h3 y
  have hz : 0 < 256 := by decide
  have hb (c : Char) (h : c.toNat < 0x80) : c.toNat < 256 := by omega
  have hwf1 : (Operand.text [c0]).wf (.bytes 1) = true := by simp [Operand.wf, asciiText, h0]
  have hwf2 : (Operand.text [c0, c1]).wf (.bytes 2) = true := by simp [Operand.wf, asciiText, h0, h1]
  have hwf3 : (Operand.text [c0, c1, c2]).wf (.bytes 3) = true := by simp [Operand.wf, asciiText, h0, h1, h2]
  have hwf4 : (Operand.text [c0, c1, c2, c3]).wf .type4 = true := by simp [Operand.wf, asciiText, h0, h1, h2, h3]
  have hfour : packWord (y c0) (y c1) (y c2) (y c3) = BitVec.ofNat 32 (textNumber [c0, c1, c2, c3]) := by
    simpa [textNumber] using packWord_ofNat c0.toNat (hb c1 h1) (hb c2 h2) (hb c3 h3)
  exact ⟨assemble_text hwf1 rfl (packWord_ofNat 0 hz hz (hb c0 h0)),
    assemble_text hwf2 rfl (packWord_ofNat 0 hz (hb c0 h0) (hb c1 h1)),
    assemble_text hwf3 rfl (packWord_ofNat 0 (hb c0 h0) (hb c1 h1) (hb c2 h2)),
    assemble_text hwf4 rfl hfour, assemble_text hwf4 rfl hfour, assemble_text hwf4 rfl hfour⟩

/-! ### The canonical grouping (R78). -/

theorem emitsStream_nil : EmitsStream [] [] := ⟨rfl, by simp⟩

/-- The first beat of the canonical grouping carries the first bytes, up to four, and the others group the rest. -/
theorem emitsStream_cons_iff {b : Beat} {p : List Beat} {bs : List Byte} :
    EmitsStream (b :: p) bs ↔
      (IsCrcBytes (decode b) ∧ streamBytes (decode b) = bs.take 4 ∧ encode (decode b) = b) ∧ EmitsStream p (bs.drop 4) := by
  have hlength (hb : bs ≠ []) : (b :: p).length = (bs.length + 3) / 4 ↔ p.length = ((bs.drop 4).length + 3) / 4 := by
    have := List.length_pos_iff.2 hb
    simp only [List.length_cons, List.length_drop]
    omega
  have hshift (k : Nat) : bs.drop (4 * (k + 1)) = (bs.drop 4).drop (4 * k) := by
    rw [List.drop_drop, Nat.mul_succ, Nat.add_comm]
  have hne (hcrc : IsCrcBytes (decode b)) (hbytes : streamBytes (decode b) = bs.take 4) : bs ≠ [] := by
    rintro rfl
    exact streamBytes_ne_nil hcrc hbytes
  constructor
  · rintro ⟨hlen, hbeats⟩
    obtain ⟨hcrc, hbytes, hcanon⟩ := hbeats 0 b rfl
    refine ⟨⟨hcrc, hbytes, hcanon⟩, (hlength (hne hcrc hbytes)).1 hlen, fun k c hk => ?_⟩
    rw [← hshift]
    exact hbeats (k + 1) c hk
  · rintro ⟨⟨hcrc, hbytes, hcanon⟩, hlen, hbeats⟩
    refine ⟨(hlength (hne hcrc hbytes)).2 hlen, fun k c hk => ?_⟩
    cases k with
    | zero =>
      obtain rfl : b = c := by simpa using hk
      exact ⟨hcrc, hbytes, hcanon⟩
    | succ k =>
      rw [hshift]
      exact hbeats k c hk

/-- One instruction and the canonical grouping of the bytes after its own. -/
theorem emitsStream_encode_cons {i : Instr} {p : List Beat} {bs : List Byte} (hcrc : IsCrcBytes i)
    (hbytes : streamBytes i = bs.take 4) (hrest : EmitsStream p (bs.drop 4)) : EmitsStream (encode i :: p) bs := by
  rw [emitsStream_cons_iff, decode_encode]
  exact ⟨⟨hcrc, hbytes, rfl⟩, hrest⟩

theorem payloadInstrs_emits (bs : List Byte) : EmitsStream ((payloadInstrs bs).map encode) bs := by
  induction bs using payloadInstrs.induct with
  | case1 b0 b1 b2 b3 rest ih => exact emitsStream_encode_cons (by simp [IsCrcBytes, opcodeOf]) rfl ih
  | case2 b0 b1 b2 => exact emitsStream_encode_cons (by simp [IsCrcBytes, opcodeOf]) rfl emitsStream_nil
  | case3 b0 b1 => exact emitsStream_encode_cons (by simp [IsCrcBytes, opcodeOf]) rfl emitsStream_nil
  | case4 b0 => exact emitsStream_encode_cons (by simp [IsCrcBytes, opcodeOf]) rfl emitsStream_nil
  | case5 => exact emitsStream_nil

/-- Beats in the canonical grouping carry the bytes that they group. -/
theorem carriesStream_of_emitsStream {p : List Beat} {bs : List Byte} (h : EmitsStream p bs) :
    CarriesStream (p.map decode) bs := by
  induction p generalizing bs with
  | nil =>
    have hlen : 0 = (bs.length + 3) / 4 := h.1
    obtain rfl : bs = [] := List.length_eq_zero_iff.1 (by omega)
    exact ⟨by simp, rfl⟩
  | cons b p ih =>
    obtain ⟨⟨hcrc, hbytes, -⟩, hrest⟩ := emitsStream_cons_iff.1 h
    obtain ⟨hcrcs, hstream⟩ := ih hrest
    refine ⟨List.forall_mem_cons.2 ⟨hcrc, hcrcs⟩, ?_⟩
    rw [List.map_cons, streamOf_cons, hbytes, hstream, List.take_append_drop]

/-! ### Groupings of the same bytes (R105). -/

/-- R105: absorbing up to four bytes at once is absorbing the first ones and then the others. LEN_OVF is sticky, so that it records
a wrap of either part. -/
theorem absorbBytes_append (a b : List Byte) (h : a.length + b.length ≤ 4) (s : State) :
    absorbBytes (a ++ b) s = absorbBytes b (absorbBytes a s) := by
  have hcount : s.count + BitVec.ofNat 32 (a ++ b).length =
      s.count + BitVec.ofNat 32 a.length + BitVec.ofNat 32 b.length := by
    rw [List.length_append, BitVec.ofNat_add, BitVec.add_assoc]
  have hovf : decide (0xFFFFFFFF < (countTotal s.count (a ++ b).length).toNat) =
      (decide (0xFFFFFFFF < (countTotal s.count a.length).toNat) ||
        decide (0xFFFFFFFF < (countTotal (s.count + BitVec.ofNat 32 a.length) b.length).toNat)) := by
    have := s.count.isLt
    rw [countTotal_toNat _ _ (by simpa using h), countTotal_toNat _ _ (by omega), countTotal_toNat _ _ (by omega),
      ← Bool.decide_or, decide_eq_decide, List.length_append, BitVec.toNat_add, BitVec.toNat_ofNat]
    omega
  simp only [absorbBytes, countBytes, clearCheck, countTotal_truncate, crc32Raw_append, hcount, hovf, Bool.or_assoc]

/-- R112 to R114: up to four bytes absorbed at once are as many CRC_B1, one for each. -/
theorem execAll_singles {bs : List Byte} (hne : bs ≠ []) (hlen : bs.length ≤ 4) (s : State) :
    execAll (bs.map .crcB1) s = .next (absorbBytes bs s) := by
  induction bs generalizing s with
  | nil => exact absurd rfl hne
  | cons b rest ih =>
    have hlen' : 1 + rest.length ≤ 4 := by rwa [List.length_cons, Nat.add_comm] at hlen
    have hfirst : execAll ((b :: rest).map .crcB1) s = execAll (rest.map .crcB1) (absorbBytes [b] s) := rfl
    by_cases hrest : rest = []
    · rw [hfirst, hrest]
      rfl
    · rw [hfirst, ih hrest (by omega), ← absorbBytes_append [b] rest hlen', List.singleton_append]

/-- R105: CRC_Bn instructions do what a CRC_B1 for each of their bytes does, whatever their grouping. -/
theorem execAll_of_carriesStream {is : List Instr} {bs : List Byte} (h : CarriesStream is bs) (s : State) :
    execAll is s = execAll (bs.map .crcB1) s := by
  obtain ⟨hcrc, rfl⟩ := h
  induction is generalizing s with
  | nil => rfl
  | cons i is ih =>
    obtain ⟨hi, his⟩ := List.forall_mem_cons.1 hcrc
    calc execAll (i :: is) s
        = execAll is (absorbBytes (streamBytes i) s) := by rw [execAll_cons, exec_of_crcBytes hi, andThen_next]
      _ = execAll ((streamOf is).map .crcB1) (absorbBytes (streamBytes i) s) := ih _ his
      _ = execAll ((streamOf (i :: is)).map .crcB1) s := by
        rw [streamOf_cons, List.map_append, execAll_append, execAll_singles (streamBytes_ne_nil hi) (streamBytes_length_le i),
          andThen_next]

theorem execAll_singles_absorbs (bs : List Byte) (s : State) :
    ∃ t, execAll (bs.map .crcB1) s = .next t ∧ t.crcRaw = crc32Raw s.crcRaw bs ∧
      t.count = s.count + BitVec.ofNat 32 bs.length := by
  induction bs generalizing s with
  | nil => exact ⟨s, rfl, rfl, (BitVec.add_zero _).symm⟩
  | cons b rest ih =>
    obtain ⟨t, ht, hraw, hcount⟩ := ih (absorbBytes [b] s)
    refine ⟨t, ht, hraw, ?_⟩
    have hone : (absorbBytes [b] s).count = s.count + BitVec.ofNat 32 1 := countTotal_truncate s.count 1
    rw [hcount, hone, BitVec.add_assoc, ← BitVec.ofNat_add, Nat.add_comm, List.length_cons]

/-- Settles O21: the canonical grouping of the bytes, CHUNK_START's string, a beat's own bits, and every grouping as single bytes. -/
theorem pseudoInstructionsEmitAndAbsorbTheirBytes : Obligations.PseudoInstructionsEmitAndAbsorbTheirBytes := by
  refine ⟨fun cs hcs => ?_, fun ns hns => ?_, fun c0 c1 c2 c3 cs ht hcs => ?_, fun b => ?_, fun p bs s hp => ?_⟩
  · exact ⟨_, assemble_crcStr_eq_ok_iff.2 ⟨hcs, rfl⟩, payloadInstrs_emits _⟩
  · exact ⟨_, by simpa [assemble] using hns, payloadInstrs_emits _⟩
  · obtain ⟨h0, h1, h2, h3⟩ : c0.toNat < 0x80 ∧ c1.toNat < 0x80 ∧ c2.toNat < 0x80 ∧ c3.toNat < 0x80 := by
      simpa [asciiText] using ht
    obtain ⟨-, -, -, -, -, hstart⟩ := quotedStringPutsTheFirstCharacterFirst c0 c1 c2 c3 h0 h1 h2 h3
    obtain ⟨b, hb, hbeat⟩ := assemble_command_eq_ok_iff.1 hstart
    obtain rfl := List.singleton_inj.1 hbeat
    have hstr := assemble_crcStr_eq_ok_iff.2 ⟨hcs, rfl⟩
    exact ⟨_, hstr, assemble_chunkCrc_eq_ok_iff.2 ⟨_, _, hb, hstr, rfl⟩⟩
  · simp [assemble, b.isLt]
  · obtain ⟨t, ht, hraw, hcount⟩ := execAll_singles_absorbs bs s
    have hsame {is : List Instr} (his : CarriesStream is bs) : execAll is s = .next t :=
      (execAll_of_carriesStream his s).trans ht
    exact ⟨t, hsame (carriesStream_of_emitsStream hp), hraw, hcount, fun _ his => hsame his⟩

end Sys2Proof.Machine

/-! PROOFS. The family 40_crc.md: other forms of the CRC (R6, R102, R108), its linearity (R119), sequences of instructions and the
bytes they absorb (R104 to R107), the chunk of a host (R117, R118), and the CRC commands (R110 to R116). -/

namespace Sys2Proof.Machine

/-! ### The normal form (R6, R102). -/

theorem reverse_xor {n : Nat} (x y : BitVec n) : (x ^^^ y).reverse = x.reverse ^^^ y.reverse := by
  apply BitVec.eq_of_getMsbD_eq
  simp [BitVec.getMsbD_reverse]

theorem reverse_ushiftRight {n : Nat} (x : BitVec n) (k : Nat) : (x >>> k).reverse = x.reverse <<< k := by
  apply BitVec.eq_of_getMsbD_eq
  simp [BitVec.getMsbD_reverse, Nat.add_comm]

theorem crcPoly_reverse : crcPoly.reverse = crcPolyNormal := by decide +kernel

/-- R102: `n` turns of the reflected form are `n` turns of the normal form with every register reversed. -/
theorem crcBits_reverse (n : Nat) (c : Word) : (crcBits n c).reverse = crcBitsNormal n c.reverse := by
  induction n generalizing c with
  | zero => rfl
  | succ n ih =>
    have hout : c.reverse.getLsbD 31 = c.getLsbD 0 := by rw [BitVec.getLsbD_reverse]; rfl
    have hturn : (crcBit c).reverse =
        if c.reverse.getLsbD 31 then (c.reverse <<< 1) ^^^ crcPolyNormal else c.reverse <<< 1 := by
      rw [hout, crcBit, apply_ite BitVec.reverse, reverse_xor, reverse_ushiftRight, crcPoly_reverse]
    rw [crcBits, crcBitsNormal, ih, hturn]

/-- The low end of the reflected register is the high end of the normal one. -/
theorem zeroExtend_reverse (b : Byte) : (b.zeroExtend 32).reverse = b.reverse.zeroExtend 32 <<< 24 := by
  apply BitVec.eq_of_getMsbD_eq
  intro k hk
  by_cases hlow : k < 8
  · simp [BitVec.getMsbD_reverse, hlow, hk]
  · simpa [BitVec.getMsbD_reverse, hlow] using fun _ => hk

/-- Settles O24, by the turns of the two forms. -/
theorem reflectedFormIsTheNormalFormReversed : Obligations.ReflectedFormIsTheNormalFormReversed := by
  intro c b
  rw [absorb, absorbNormal, crcBits_reverse, reverse_xor, zeroExtend_reverse]

/-! ### Tables and four bytes at once (R108). -/

theorem zeroExtend_xor (a b : Byte) : (a ^^^ b).zeroExtend 32 = a.zeroExtend 32 ^^^ b.zeroExtend 32 := BitVec.setWidth_xor

/-- R108: the byte that leaves the register and the byte that comes select the table's entry together. -/
theorem absorbByTable_eq_absorb (c : Word) (b : Byte) : absorbByTable c b = absorb c b := by
  have hentry : crcTable (byteOf c 0 ^^^ b) = absorb (b.zeroExtend 32) (byteOf c 0) := by
    rw [crcTable, absorb, zeroExtend_xor, BitVec.xor_comm]
  calc absorbByTable c b
      = absorb (b.zeroExtend 32) (byteOf c 0) ^^^ (c >>> 8) := by rw [absorbByTable, hentry, BitVec.xor_comm]
    _ = crcBits 8 (b.zeroExtend 32 ^^^ c) := (crcBits_eight_xor _ _).symm
    _ = absorb c b := by rw [absorb, BitVec.xor_comm]

/-- Settles O25, byte by byte. -/
theorem tableDrivenCrcIsTheBitSerialCrc : Obligations.TableDrivenCrcIsTheBitSerialCrc := by
  intro c s
  induction s generalizing c with
  | nil => rfl
  | cons b s ih => rw [List.foldl_cons, absorbByTable_eq_absorb, ih, crc32Raw_cons]

/-- Settles O26: the four bytes are those of the word laid over the register. -/
theorem fourBytesAtOnceIsTheBitSerialCrc : Obligations.FourBytesAtOnceIsTheBitSerialCrc := by
  intro c b0 b1 b2 b3
  rw [absorbFour, crcBits_word]
  simp only [byteOf_packWord_zero, byteOf_packWord_one, byteOf_packWord_two, byteOf_packWord_three]

/-! ### Linearity (R119). -/

theorem absorb_xor (c d : Word) (a b : Byte) : absorb c a ^^^ absorb d b = absorb (c ^^^ d) (a ^^^ b) := by
  rw [absorb, absorb, absorb, ← crcBits_xor, zeroExtend_xor]
  ac_rfl

/-- Settles O33, byte by byte. -/
theorem crcIsLinear : Obligations.CrcIsLinear := by
  intro c d a b h
  induction a generalizing c d b with
  | nil =>
    obtain rfl := List.length_eq_zero_iff.1 h.symm
    rfl
  | cons x a ih =>
    obtain ⟨y, b, rfl⟩ := List.exists_cons_of_length_eq_add_one h.symm
    rw [crc32Raw_cons, crc32Raw_cons, ih _ _ _ (Nat.succ.inj h), absorb_xor, List.zipWith_cons_cons, crc32Raw_cons]

/-- The generator polynomial's high bit records the bit that has left the register. -/
theorem crcBit_getLsbD_high (c : Word) : (crcBit c).getLsbD 31 = c.getLsbD 0 := by
  have hpoly : crcPoly.getLsbD 31 = true := by decide
  rw [crcBit_eq]
  cases c.getLsbD 0 <;> simp [hpoly]

theorem eq_zero_of_crcBit_eq_zero {c : Word} (h : crcBit c = 0) : c = 0 := by
  have hlow : c.getLsbD 0 = false := by rw [← crcBit_getLsbD_high, h]; rfl
  have hshift : c >>> 1 = 0 := by rw [← crcBit_of_even c hlow, h]
  apply BitVec.eq_of_getLsbD_eq
  intro k _
  cases k with
  | zero => exact hlow
  | succ k => simpa [Nat.add_comm] using congrArg (·.getLsbD k) hshift

theorem eq_zero_of_crcBits_eq_zero {n : Nat} {c : Word} (h : crcBits n c = 0) : c = 0 := by
  induction n generalizing c with
  | zero => exact h
  | succ n ih => exact eq_zero_of_crcBit_eq_zero (ih h)

/-- By linearity, no two registers go to the same one. -/
theorem crcBits_injective (n : Nat) : Function.Injective (crcBits n) := by
  intro c d h
  have hzero : crcBits n (c ^^^ d) = 0 := by rw [crcBits_xor, h]; exact BitVec.xor_self
  exact BitVec.xor_eq_zero_iff.1 (eq_zero_of_crcBits_eq_zero hzero)

theorem crc32Raw_injective (s : List Byte) : Function.Injective (crc32Raw · s) := by
  induction s with
  | nil => exact Function.injective_id
  | cons b s ih => exact fun c d h => (BitVec.xor_left_inj _).1 (crcBits_injective 8 (ih h))

theorem byteOf_zeroExtend (b : Byte) : byteOf (b.zeroExtend 32) 0 = b :=
  (BitVec.extractLsb'_setWidth_of_le (by decide)).trans BitVec.extractLsb'_eq_self

theorem absorb_injective (c : Word) : Function.Injective (absorb c) := by
  intro a b h
  have hwide : a.zeroExtend 32 = b.zeroExtend 32 := (BitVec.xor_right_inj c).1 (crcBits_injective 8 h)
  rw [← byteOf_zeroExtend a, hwide, byteOf_zeroExtend]

/-- Another byte in one place of a sequence is another checksum. -/
theorem crc32_append_cons_ne (p q : List Byte) {b b' : Byte} (hne : b' ≠ b) :
    crc32 (p ++ b' :: q) ≠ crc32 (p ++ b :: q) := by
  intro h
  have hraw : crc32Raw crcInitValue (p ++ b' :: q) = crc32Raw crcInitValue (p ++ b :: q) := (BitVec.xor_left_inj _).1 h
  rw [crc32Raw_append, crc32Raw_append, crc32Raw_cons, crc32Raw_cons] at hraw
  exact hne (absorb_injective _ (crc32Raw_injective q hraw))

theorem xor_shiftLeft_one_ne (b : Byte) {j : Nat} (hj : j < 8) : b ^^^ (1 <<< j) ≠ b := by
  intro h
  have hbit := congrArg (·.getLsbD j) h
  simp [hj, -BitVec.getLsbD_eq_getElem, BitVec.getLsbD_ofNat, Nat.testBit_shiftLeft] at hbit

/-- Settles O34: a byte with one bit flipped is another byte. -/
theorem oneBitErrorChangesTheChecksum : Obligations.OneBitErrorChangesTheChecksum := by
  intro s k j b hb hj
  obtain ⟨hk, hget⟩ := List.getElem?_eq_some_iff.1 hb
  have hself : s = s.take k ++ b :: s.drop (k + 1) := by rw [← hget, List.getElem_cons_drop, List.take_append_drop]
  have hset : s.set k (b ^^^ (1 <<< j)) = s.take k ++ (b ^^^ (1 <<< j)) :: s.drop (k + 1) :=
    List.set_eq_take_append_cons_drop.trans (if_pos hk)
  rw [hset]
  exact fun h => crc32_append_cons_ne _ _ (xor_shiftLeft_one_ne b hj) (h.trans (congrArg crc32 hself))

/-! ### What a sequence of instructions absorbs (R104 to R107). -/

/-- Settles O28: CRC_Bn instructions absorb as single bytes do. -/
theorem crcDependsOnlyOnTheConcatenatedBytes : Obligations.CrcDependsOnlyOnTheConcatenatedBytes := by
  refine ⟨crc32Raw_append, fun s is his => ?_⟩
  obtain ⟨t, ht, habsorbed⟩ := execAll_singles_absorbs (streamOf is) s
  exact ⟨t, (execAll_of_carriesStream ⟨his, rfl⟩ s).trans ht, habsorbed⟩

/-- R104: COUNT as a number. -/
theorem absorbBytes_count_toNat (bs : List Byte) (s : State) :
    (absorbBytes bs s).count.toNat = (s.count.toNat + bs.length) % 2 ^ 32 := by
  rw [absorbBytes_count, countTotal_truncate, BitVec.toNat_add, BitVec.toNat_ofNat, Nat.add_mod_mod]

/-- R104: LEN_OVF is sticky, and set by a total that does not fit. -/
theorem absorbBytes_lenOvf_iff {bs : List Byte} (h : bs.length ≤ 4) (s : State) :
    (absorbBytes bs s).lenOvf = true ↔ s.lenOvf = true ∨ 0xFFFFFFFF < s.count.toNat + bs.length := by
  rw [absorbBytes_lenOvf, countTotal_toNat _ _ h, Bool.or_eq_true, decide_eq_true_iff]

/-- Settles O31, by what a CRC_Bn does with its bytes. -/
theorem countWrapsAndRecordsTheWrap : Obligations.CountWrapsAndRecordsTheWrap := fun s i hi =>
  ⟨_, exec_of_crcBytes hi s, absorbBytes_count_toNat _ s, absorbBytes_lenOvf_iff (streamBytes_length_le i) s⟩

/-- Settles O32, row by row: no instruction reads COUNT or LEN_OVF but to write them. -/
theorem checksumIsIndependentOfTheCount : Obligations.ChecksumIsIndependentOfTheCount := by
  intro s i n o
  cases i with
  | nop | crcInit | crcB1 | crcB2 | crcB3 | crcB4 | typeLoad | chunkStart => exact ⟨_, _, _, rfl, rfl⟩
  | crcCheck | clrErr => exact ⟨_, _, _, rfl, rfl⟩
  | reservedA | reservedB | reservedC | reservedD | reservedE | reservedF => exact ⟨_, _, _, rfl, rfl⟩

/-- The block has absorbed `bs` from the register `c` on, with COUNT at 0 and LEN_OVF clear before it. -/
structure Absorbed (c : Word) (bs : List Byte) (s : State) : Prop where
  crcRaw : s.crcRaw = crc32Raw c bs
  count : s.count.toNat = bs.length % 2 ^ 32
  lenOvf : s.lenOvf = true ↔ 0xFFFFFFFF < bs.length

theorem absorbed_absorbBytes {c : Word} {bs cs : List Byte} {s : State} (hs : Absorbed c bs s) (hcs : cs.length ≤ 4) :
    Absorbed c (bs ++ cs) (absorbBytes cs s) where
  crcRaw := by rw [absorbBytes_crcRaw, hs.crcRaw, crc32Raw_append]
  count := by rw [absorbBytes_count_toNat, hs.count, List.length_append, Nat.mod_add_mod]
  lenOvf := by
    rw [absorbBytes_lenOvf_iff hcs, hs.lenOvf, hs.count, List.length_append]
    omega

theorem streamBytes_eq_nil_of_not_crcBytes {i : Instr} (h : ¬ IsCrcBytes i) : streamBytes i = [] := by
  cases i with
  | crcB1 | crcB2 | crcB3 | crcB4 => exact absurd (by simp [IsCrcBytes, opcodeOf]) h
  | nop | crcInit | typeLoad | chunkStart | crcCheck | clrErr => rfl
  | reservedA | reservedB | reservedC | reservedD | reservedE | reservedF => rfl

/-- An instruction that starts no new computation absorbs its bytes (R106). -/
theorem exec_keepsChunk_absorbs {c : Word} {bs : List Byte} {i : Instr} {s t : State} (hi : KeepsChunk i)
    (hs : Absorbed c bs s) (h : exec i s = .next t) : Absorbed c (bs ++ streamBytes i) t := by
  by_cases hcrc : IsCrcBytes i
  · obtain rfl : absorbBytes (streamBytes i) s = t := by simpa [exec_of_crcBytes hcrc] using h
    exact absorbed_absorbBytes hs (streamBytes_length_le i)
  · rw [streamBytes_eq_nil_of_not_crcBytes hcrc, List.append_nil]
    obtain ⟨hraw, hcount, hovf⟩ := hs
    cases effect_of_exec h with
    | crcInit => exact absurd rfl hi.1
    | chunkStart => exact absurd rfl hi.2
    | crcBytes hbytes => exact absurd hbytes hcrc
    | nop | typeLoad | crcCheck | clrErr | reserved => exact ⟨hraw, hcount, hovf⟩

/-- What each instruction of a sequence keeps, of the bytes absorbed so far and the state, the sequence keeps. -/
theorem execAll_induction {P : List Byte → State → Prop} {is : List Instr}
    (hstep : ∀ i ∈ is, ∀ bs s t, P bs s → exec i s = .next t → P (bs ++ streamBytes i) t) {bs : List Byte} {s : State}
    (hs : P bs s) : ∃ t, execAll is s = .next t ∧ P (bs ++ streamOf is) t := by
  induction is generalizing bs s with
  | nil => exact ⟨s, rfl, by rwa [streamOf_nil, List.append_nil]⟩
  | cons i is ih =>
    obtain ⟨hi, his⟩ := List.forall_mem_cons.1 hstep
    obtain ⟨u, hu, -⟩ := exec_effect i s
    obtain ⟨t, ht, hend⟩ := ih his (hi bs s u hs hu)
    exact ⟨t, by rw [execAll_cons, hu, andThen_next, ht], by rwa [streamOf_cons, ← List.append_assoc]⟩

/-- R115: what CHUNK_START leaves. -/
def chunkStarted (t : Word) (s : State) : State :=
  { startCrc (crc32Raw crcInitValue (wireBytes t)) s with typeCode := t }

theorem exec_chunkStartOf (t : Word) (s : State) : exec (chunkStartOf t) s = .next (chunkStarted t s) := by
  rw [chunkStartOf, exec, execChunkStart, packWord_byteOf]
  rfl

theorem absorbed_chunkStarted (t : Word) (s : State) :
    Absorbed (crc32Raw crcInitValue (wireBytes t)) [] (chunkStarted t s) :=
  ⟨rfl, rfl, by simp [chunkStarted]⟩

/-- R106: CHUNK_START and instructions that start no new computation leave what the type bytes and the payload make. -/
theorem execAll_chunkStartOf (s : State) (t : Word) {is : List Instr} (his : ∀ i ∈ is, KeepsChunk i) :
    ∃ u, execAll (chunkStartOf t :: is) s = .next u ∧
      Absorbed (crc32Raw crcInitValue (wireBytes t)) (streamOf is) u := by
  rw [execAll_cons, exec_chunkStartOf, andThen_next]
  exact execAll_induction (fun i hi _ _ _ => exec_keepsChunk_absorbs (his i hi)) (absorbed_chunkStarted t s)

theorem crcOut_of_absorbed {ts bs : List Byte} {s : State} (h : Absorbed (crc32Raw crcInitValue ts) bs s) :
    crcOut s = crc32 (ts ++ bs) := by
  rw [crcOut, h.crcRaw, ← crc32Raw_append, crc32]

/-- Settles O29, by what the sequence absorbs. -/
theorem blockHoldsTheChunkChecksumAndLength : Obligations.BlockHoldsTheChunkChecksumAndLength := by
  intro s t is his
  obtain ⟨u, hu, habsorbed⟩ := execAll_chunkStartOf s t his
  exact ⟨u, hu, crcOut_of_absorbed habsorbed, habsorbed.count⟩

/-- Settles O30, by what the sequence absorbs. -/
theorem lenOvfExactlyWhenThePayloadIsTooLong : Obligations.LenOvfExactlyWhenThePayloadIsTooLong := by
  intro s t is his
  obtain ⟨u, hu, habsorbed⟩ := execAll_chunkStartOf s t his
  exact ⟨u, hu, habsorbed.lenOvf⟩

/-! ### The chunk of a host (R117, R118). -/

/-- R117: the block after CHUNK_START and the payload in any grouping. -/
theorem execAll_chunkInstrs (s : State) (t : Word) {p : List Byte} {is : List Instr} (hp : CarriesStream is p) :
    ∃ u, execAll (chunkInstrs t is) s = .next u ∧
      Absorbed (crc32Raw crcInitValue (wireBytes t)) p u ∧ u.typeCode = t := by
  obtain ⟨hcrc, rfl⟩ := hp
  rw [chunkInstrs, execAll_cons, exec_chunkStartOf, andThen_next]
  refine execAll_induction (P := fun bs u => Absorbed (crc32Raw crcInitValue (wireBytes t)) bs u ∧ u.typeCode = t)
    (fun i hi bs u v hu hv => ?_) ⟨absorbed_chunkStarted t s, rfl⟩
  obtain rfl : absorbBytes (streamBytes i) u = v := by simpa [exec_of_crcBytes (hcrc i hi)] using hv
  exact ⟨absorbed_absorbBytes hu.1 (streamBytes_length_le i), hu.2⟩

/-- Settles O56: CRC_CHECK compares what the chunk has left in CRC_OUT. -/
theorem checkMatchesExactlyTheChunkChecksum : Obligations.CheckMatchesExactlyTheChunkChecksum := by
  intro s t stored p is hp
  obtain ⟨u, hu, habsorbed, -⟩ := execAll_chunkInstrs s t hp
  refine ⟨{ u with checked := true, matched := decide (crcOut u = stored) }, ?_, rfl, ?_⟩
  · rw [verifyInstrs, execAll_append, hu]
    rfl
  · rw [crcOut_of_absorbed habsorbed, decide_eq_true_iff]
    exact eq_comm

/-- Settles O57: LEN_OVF tells whether COUNT is the whole length. -/
theorem formedChunkIsTheWireFormat : Obligations.FormedChunkIsTheWireFormat := by
  intro s t p is hp
  obtain ⟨u, hu, habsorbed, htype⟩ := execAll_chunkInstrs s t hp
  have hcount : u.count = BitVec.ofNat 32 p.length := BitVec.eq_of_toNat_eq habsorbed.count
  refine ⟨u, hu, ?_⟩
  simp only [formChunk, habsorbed.lenOvf, hcount, htype, crcOut_of_absorbed habsorbed, chunkWire]

/-! ### The CRC commands (R103, R109 to R116). -/

/-- Settles O23, by running the register over the bytes. -/
theorem crcWorkedValues : Obligations.CrcWorkedValues := by
  unfold Obligations.CrcWorkedValues
  decide +kernel

/-- Settles O35: CRC_INIT leaves nothing that it would change again. -/
theorem crcInitStartsANewComputation : Obligations.CrcInitStartsANewComputation :=
  ⟨fun d => (decode_mkBeat _ d).trans (decodeFields_crcInit d), fun _ => ⟨rfl, rfl⟩⟩

/-- R111 to R114: the whole effect of absorbing up to four bytes; LEN_OVF is set from a COUNT on that leaves no room for them. -/
theorem absorbBytes_eq {bs : List Byte} (h : bs.length ≤ 4) (s : State) :
    absorbBytes bs s = { s with
      crcRaw := crc32Raw s.crcRaw bs, count := s.count + BitVec.ofNat 32 bs.length
      lenOvf := s.lenOvf || decide (2 ^ 32 - bs.length ≤ s.count.toNat), matched := false, checked := false } := by
  have hovf : decide (0xFFFFFFFF < (countTotal s.count bs.length).toNat) = decide (2 ^ 32 - bs.length ≤ s.count.toNat) := by
    rw [countTotal_toNat _ _ h, decide_eq_decide]
    omega
  rw [absorbBytes, countBytes, clearCheck, countTotal_truncate, hovf]

/-- Settles O36: the only COUNT with no room for a byte is the greatest. -/
theorem crcB1AbsorbsOneByte : Obligations.CrcB1AbsorbsOneByte := by
  refine ⟨fun d => (decode_mkBeat _ d).trans (decodeFields_crcB1 d), fun s b0 => ?_⟩
  have hfull : s.count = 0xFFFFFFFF ↔ 2 ^ 32 - 1 ≤ s.count.toNat := by
    have := s.count.isLt
    bv_omega
  simp only [decide_eq_decide.2 hfull]
  exact congrArg _ (absorbBytes_eq (bs := [b0]) (by simp) s)

/-- Settles O37: absorbing two bytes at once is absorbing one and then the other. -/
theorem crcB2AbsorbsTwoBytesHighByteFirst : Obligations.CrcB2AbsorbsTwoBytesHighByteFirst :=
  ⟨fun d => (decode_mkBeat _ d).trans (decodeFields_crcB2 d), fun s b0 b1 =>
    ⟨congrArg _ (absorbBytes_eq (bs := [b0, b1]) (by simp) s),
      congrArg _ (absorbBytes_append [b0] [b1] (by simp) s).symm⟩⟩

/-- Settles O38, by what a CRC_Bn does with three bytes. -/
theorem crcB3AbsorbsThreeBytesHighestFirst : Obligations.CrcB3AbsorbsThreeBytesHighestFirst :=
  ⟨fun d => (decode_mkBeat _ d).trans (decodeFields_crcB3 d), fun s b0 b1 b2 =>
    congrArg _ (absorbBytes_eq (bs := [b0, b1, b2]) (by simp) s)⟩

/-- Settles O39, by what a CRC_Bn does with four bytes. -/
theorem crcB4AbsorbsFourBytesMostSignificantFirst : Obligations.CrcB4AbsorbsFourBytesMostSignificantFirst :=
  ⟨fun d => (decode_mkBeat _ d).trans (decodeFields_crcB4 d), fun s b0 b1 b2 b3 =>
    congrArg _ (absorbBytes_eq (bs := [b0, b1, b2, b3]) (by simp) s)⟩

/-- Settles O40: CRC_B4 after CRC_INIT counts the four type bytes, which are too few to set LEN_OVF. -/
theorem chunkStartStartsAChunkWithItsType : Obligations.ChunkStartStartsAChunkWithItsType :=
  ⟨fun d => (decode_mkBeat _ d).trans (decodeFields_chunkStart d), fun s t0 t1 t2 t3 =>
    ⟨rfl, { absorbBytes [t0, t1, t2, t3] (startCrc crcInitValue s) with typeCode := packWord t0 t1 t2 t3 }, rfl, rfl, rfl⟩⟩

/-- Settles O41: MISMATCH is the check's other answer. -/
theorem crcCheckComparesTheChecksum : Obligations.CrcCheckComparesTheChecksum :=
  ⟨fun d => (decode_mkBeat _ d).trans (decodeFields_crcCheck d), fun _ _ => ⟨rfl, rfl⟩⟩

end Sys2Proof.Machine

/-! PROOFS. The family 41_type.md: letters (R141), the fields of FLAGS (R28, R142 to R152), TYPE and the commands that load it (R154,
R155), and the policies of a host (R153). -/

namespace Sys2Proof.Machine

/-! ### Letters (R141). -/

theorem isLetter_iff (b : Byte) :
    isLetter b = true ↔ (0x41 ≤ b.toNat ∧ b.toNat ≤ 0x5A) ∨ (0x61 ≤ b.toNat ∧ b.toNat ≤ 0x7A) := by
  simp [isLetter, isUpper, isLower]

theorem isAscii_iff (b : Byte) : isAscii b = true ↔ b.toNat < 0x80 := by
  simp [isAscii]

/-- R150: every non-ASCII byte is also a non-letter. -/
theorem isAscii_of_isLetter {b : Byte} (h : isLetter b = true) : isAscii b = true := by
  rw [isLetter_iff] at h
  rw [isAscii_iff]
  omega

/-- Bit 5 is the bit of value 0x20. -/
theorem getLsbD_five_eq_false_iff (b : Byte) : b.getLsbD 5 = false ↔ b.toNat / 0x20 % 2 = 0 := by
  rw [BitVec.getLsbD, Nat.testBit_eq_decide_div_mod_eq, decide_eq_false_iff_not]
  omega

/-- Settles O51: the uppercase letters lie in 0x40 to 0x5F, where bit 5 is 0, and the lowercase ones in 0x60 to 0x7F, where it is 1. -/
theorem letterCaseIsBitFive : Obligations.LetterCaseIsBitFive := by
  intro b
  refine ⟨isLetter_iff b, fun hletter => ?_, fun hlower => ?_⟩
  · rw [isLetter_iff] at hletter
    rw [getLsbD_five_eq_false_iff]
    omega
  · have hsub : (b - 0x20).toNat = b.toNat - 0x20 := by bv_omega
    exact ⟨by omega, by omega, (BitVec.sub_add_cancel b 0x20).symm⟩

/-! ### The fields of FLAGS (R28). -/

/-- A field of two bits laid below the others is its two bits laid one after the other. -/
theorem append_two_bits {n : Nat} (x : BitVec n) (y : BitVec 2) :
    x ++ y = (x.concat (y.getLsbD 1)).concat (y.getLsbD 0) := by
  apply BitVec.eq_of_getLsbD_eq
  intro k _
  match k with
  | 0 | 1 => simp [BitVec.getElem_append]
  | k + 2 => simp [BitVec.getLsbD_append]

/-- A part of the word that does not reach its lowest bit. -/
theorem extractLsb'_concat_succ {n : Nat} (x : BitVec n) (c : Bool) (k len : Nat) :
    (x.concat c).extractLsb' (k + 1) len = x.extractLsb' k len := by
  apply BitVec.eq_of_getLsbD_eq
  intro j _
  simp [Nat.add_right_comm k 1 j]

section
variable (t : Word)

/-- R142 to R146: the fields that are one bit of TYPE. -/
theorem flagsOf_getLsbD_low :
    (flagsOf t).getLsbD 0 = ancBit t ∧ (flagsOf t).getLsbD 1 = privBit t ∧ (flagsOf t).getLsbD 2 = rsvBit t ∧
    (flagsOf t).getLsbD 3 = stcBit t ∧ (flagsOf t).getLsbD 4 = critical t ∧ (flagsOf t).getLsbD 5 = isPublic t ∧
    (flagsOf t).getLsbD 6 = valid t ∧ (flagsOf t).getLsbD 7 = safeToCopy t := by
  simp [flagsOf, append_bit]

/-- R147: the tests of the type bytes stand in wire order. -/
theorem flagsOf_getLsbD_alpha {k : Nat} (hk : k < 4) : (flagsOf t).getLsbD (8 + k) = alpha t k := by
  simp only [flagsOf, append_bit]
  interval_cases k <;> simp

@[simp] theorem flagsOf_getLsbD_allAlpha : (flagsOf t).getLsbD 12 = allAlpha t := by
  simp [flagsOf, append_bit]

@[simp] theorem flagsOf_getLsbD_allAscii : (flagsOf t).getLsbD 13 = allAscii t := by
  simp [flagsOf, append_bit]

@[simp] theorem flagsOf_extractLsb'_terr : (flagsOf t).extractLsb' 14 2 = terrCode (typeError t) := by
  simp only [flagsOf, append_bit, extractLsb'_concat_succ]
  exact BitVec.extractLsb'_append_eq_right

@[simp] theorem flagsOf_getLsbD_chunkOk : (flagsOf t).getLsbD 16 = chunkOk t := by
  simp [flagsOf, append_bit, append_two_bits]

/-- R152: FLAGS is zero from bit 17 on. -/
theorem flagsOf_getLsbD_high {k : Nat} (hk : 17 ≤ k) : (flagsOf t).getLsbD k = false := by
  obtain ⟨j, rfl⟩ := Nat.exists_eq_add_of_le' hk
  simp [flagsOf, append_bit, append_two_bits]

end

theorem typeByte_eq (t : Word) {k : Nat} (hk : k < 4) : typeByte t k = t.extractLsb' (24 - 8 * k) 8 := by
  rw [typeByte, byteOf, show 8 * (3 - k) = 24 - 8 * k by omega]

/-- A statement about the four bytes of a word is one about its four type bytes (R27). -/
theorem forall_bytes_iff (t : Word) (p : Byte → Prop) :
    (∀ k, k < 4 → p (t.extractLsb' (8 * k) 8)) ↔
      p (typeByte t 0) ∧ p (typeByte t 1) ∧ p (typeByte t 2) ∧ p (typeByte t 3) := by
  constructor
  · exact fun h => ⟨h 3 (by decide), h 2 (by decide), h 1 (by decide), h 0 (by decide)⟩
  · rintro ⟨h0, h1, h2, h3⟩ k hk
    match k with
    | 0 => exact h3
    | 1 => exact h2
    | 2 => exact h1
    | 3 => exact h0

theorem allAlpha_iff (t : Word) : allAlpha t = true ↔ ∀ k, k < 4 → isLetter (t.extractLsb' (8 * k) 8) = true := by
  rw [forall_bytes_iff t (isLetter · = true)]
  simp [allAlpha, alpha, and_assoc]

theorem allAscii_iff (t : Word) : allAscii t = true ↔ ∀ k, k < 4 → (t.extractLsb' (8 * k) 8).toNat < 0x80 := by
  rw [forall_bytes_iff t (·.toNat < 0x80)]
  simp [allAscii, isAscii_iff, and_assoc]

/-- R150: a type code that is all letters is all ASCII. -/
theorem allAscii_of_allAlpha {t : Word} (h : allAlpha t = true) : allAscii t = true := by
  rw [allAlpha_iff] at h
  exact (allAscii_iff t).2 fun k hk => (isAscii_iff _).1 (isAscii_of_isLetter (h k hk))

/-- Settles O50, field by field; the tests of the single type bytes count from the most significant byte. -/
theorem flagsFieldsAreTheSpecifiedBits : Obligations.FlagsFieldsAreTheSpecifiedBits := by
  intro t
  obtain ⟨hanc, hpriv, hrsv, hstc, hcritical, hpublic, hvalid, hsafe⟩ := flagsOf_getLsbD_low t
  have halpha : ∀ k, k < 4 → (flagsOf t).getLsbD (8 + k) = isLetter (t.extractLsb' (24 - 8 * k) 8) := fun k hk =>
    (flagsOf_getLsbD_alpha t hk).trans (congrArg isLetter (typeByte_eq t hk))
  have hok : (flagsOf t).getLsbD 16 = ((flagsOf t).getLsbD 12 && (flagsOf t).getLsbD 6) := by
    rw [flagsOf_getLsbD_chunkOk, flagsOf_getLsbD_allAlpha, hvalid, chunkOk]
  refine ⟨hanc, hpriv, hrsv, hstc, hcritical, hpublic, hvalid, hsafe, halpha, ?_, ?_, hok,
    fun k hk => flagsOf_getLsbD_high t hk⟩
  · rw [flagsOf_getLsbD_allAlpha, allAlpha_iff]
  · rw [flagsOf_getLsbD_allAscii, allAscii_iff]

/-! ### TERR (R150). -/

theorem typeError_of_not_ascii {t : Word} (h : allAscii t = false) : typeError t = some .notAscii := by
  simp [typeError, h]

theorem typeError_of_not_alpha {t : Word} (hascii : allAscii t = true) (halpha : allAlpha t = false) :
    typeError t = some .notAlphabetic := by
  simp [typeError, hascii, halpha]

theorem typeError_of_alpha {t : Word} (h : allAlpha t = true) : typeError t = none := by
  simp [typeError, h, allAscii_of_allAlpha h]

theorem terrCode_ne_three (e : Option TypeError) : terrCode e ≠ 0b11 := by
  cases e with
  | none => decide
  | some e => cases e <;> decide

/-- Settles O52, by the construction error that the two tests of all four bytes leave. -/
theorem typeErrorCodeAndItsPrecedence : Obligations.TypeErrorCodeAndItsPrecedence := by
  intro t
  simp only [flagsOf_getLsbD_allAscii, flagsOf_getLsbD_allAlpha, flagsOf_extractLsb'_terr]
  refine ⟨fun hascii => ?_, fun hascii halpha => ?_, fun _ halpha => ?_, terrCode_ne_three _, fun hascii => ?_⟩
  · rw [typeError_of_not_ascii hascii]; rfl
  · rw [typeError_of_not_alpha hascii halpha]; rfl
  · rw [typeError_of_alpha halpha]; rfl
  · exact Bool.eq_false_iff.2 fun halpha => Bool.eq_false_iff.1 hascii (allAscii_of_allAlpha halpha)

/-- Settles O53, by evaluating FLAGS at the fifteen type codes. -/
theorem referenceTypeCodesHaveTheirFlags : Obligations.ReferenceTypeCodesHaveTheirFlags := by
  unfold Obligations.ReferenceTypeCodesHaveTheirFlags
  decide

/-! ### Loading TYPE and reading it back (R154, R155). -/

/-- Settles O42, by the row of TYPE_LOAD. -/
theorem typeLoadLoadsTypeOnly : Obligations.TypeLoadLoadsTypeOnly :=
  ⟨fun d => (decode_mkBeat _ d).trans (decodeFields_typeLoad d), fun _ _ _ _ _ => rfl⟩

/-- TYPE_LOAD and CHUNK_START leave in TYPE the operand word they were given (R115, R155). -/
theorem exec_loads_typeCode {op : Opcode} (hop : op = 0x6 ∨ op = 0x7) {d : Word} {s t : State}
    (h : exec (decode (mkBeat op d)) s = .next t) : t.typeCode = d := by
  rw [decode_mkBeat] at h
  rcases hop with rfl | rfl <;> (injection h with h; subst h; exact packWord_byteOf d)

/-- Settles O54: the read after the one beat sees TYPE as the beat loaded it. -/
theorem typeReadsBackLosslessly : Obligations.TypeReadsBackLosslessly := by
  intro s op d rest hp hop hq
  obtain ⟨u, hu, -, hread⟩ := readAfterBeatsSeesEveryBeat s [mkBeat op d] 3 rest hp hq
  have htype : u.typeCode = d := exec_loads_typeCode hop ((andThen_pure _).symm.trans hu)
  exact ⟨_, hread, congrArg some htype, htype⟩

/-! ### No policy is enforced (R153). -/

/-- Whatever TYPE holds, an instruction does the same to every other element: TYPE_LOAD and CHUNK_START overwrite TYPE, and the
others leave it. -/
theorem exec_with_typeCode (i : Instr) (s : State) (tc : Word) :
    ∃ t tc', exec i s = .next t ∧ exec i { s with typeCode := tc } = .next { t with typeCode := tc' } := by
  cases i with
  | typeLoad t0 t1 t2 t3 | chunkStart t0 t1 t2 t3 => exact ⟨_, packWord t0 t1 t2 t3, rfl, rfl⟩
  | nop | crcInit | crcCheck | clrErr => exact ⟨_, tc, rfl, rfl⟩
  | crcB1 | crcB2 | crcB3 | crcB4 => exact ⟨_, tc, rfl, rfl⟩
  | reservedA | reservedB | reservedC | reservedD | reservedE | reservedF => exact ⟨_, tc, rfl, rfl⟩

/-- Settles O58: no instruction reads TYPE, and each policy is one field of FLAGS. -/
theorem typeNeverAltersAnInstructionAndPoliciesReadFlags :
    Obligations.TypeNeverAltersAnInstructionAndPoliciesReadFlags :=
  ⟨fun s i tc => exec_with_typeCode i s tc, fun t =>
    ⟨(flagsOf_getLsbD_chunkOk t).symm, (flagsOf_getLsbD_allAlpha t).symm, (flagsOf_getLsbD_allAscii t).symm,
      (flagsOf_getLsbD_chunkOk t).symm⟩⟩

end Sys2Proof.Machine

/-! PROOFS. The family 42_control.md: NOP, CLR_ERR and the reserved opcodes (R180 to R182). -/

namespace Sys2Proof.Machine

/-- Settles O43, by the row of NOP. -/
theorem nopLeavesEverything : Obligations.NopLeavesEverything :=
  ⟨fun d => (decode_mkBeat _ d).trans (decodeFields_nop d), fun _ => rfl⟩

/-- Settles O44: what CLR_ERR clears is the illegal-command record alone. -/
theorem clrErrClearsIllegalOnly : Obligations.ClrErrClearsIllegalOnly :=
  ⟨fun d => (decode_mkBeat _ d).trans (decodeFields_clrErr d), fun _ => rfl⟩

/-- R182: the reserved opcodes differ in their rows and not in their effect. -/
theorem exec_of_reserved {i : Instr} (h : IsReserved i) (s : State) : exec i s = .next { s with illegal := true } := by
  cases i with
  | reservedA | reservedB | reservedC | reservedD | reservedE | reservedF => rfl
  | nop | crcInit | crcB1 | crcB2 | crcB3 | crcB4 | typeLoad | chunkStart | crcCheck | clrErr => simp [opcodeOf] at h

/-- Settles O45: six rows of the opcode map, and one effect for all of them. -/
theorem reservedOpcodesSetIllegalOnly : Obligations.ReservedOpcodesSetIllegalOnly := by
  refine ⟨fun d => ?_, fun s => ?_⟩
  · simp [decode_mkBeat]
  · refine ⟨?_, ?_, ?_, ?_, ?_, ?_⟩ <;> exact exec_of_reserved (by decide) s

end Sys2Proof.Machine

/-! PROOFS. The family 60_exceptions.md: no step stops (R200), and the indications with their causes (R201), their lifetimes (R202) and
their report order (R203). -/

namespace Sys2Proof.Machine

/-! ### Completion (R75, R200). -/

theorem exec_completes (i : Instr) (s : State) : ∃ t, exec i s = .next t :=
  (exec_effect i s).imp fun _ h => h.1

theorem acceptBeat_completes (i : Instr) (s : State) : ∃ t, acceptBeat i s = .next t := by
  cases hextra : Config.extraCycles (opcodeOf i) with
  | zero => exact acceptBeat_of_one_cycle hextra s ▸ exec_completes i s
  | succ n => exact ⟨_, acceptBeat_of_more_cycles hextra s⟩

theorem busyEdge_completes (i : Instr) (left : Nat) (s : State) : ∃ t, busyEdge i left s = .next t := by
  cases left with
  | zero => exact exec_completes i { s with phase := .ready }
  | succ n => exact ⟨_, rfl⟩

theorem clockEdge_completes (r v : Bool) (b : Beat) (s : State) : ∃ t, clockEdge r v b s = .next t := by
  cases r with
  | true => exact ⟨_, clockEdge_rst v b s⟩
  | false =>
    cases hp : s.phase with
    | unreset => exact ⟨_, clockEdge_of_unreset v b hp⟩
    | inReset => exact ⟨_, clockEdge_of_inReset v b hp⟩
    | ready =>
      rw [clockEdge_of_ready v b hp]
      cases v with
      | true => exact acceptBeat_completes (decode b) s
      | false => exact ⟨s, rfl⟩
    | busy i left => exact clockEdge_of_busy v b hp ▸ busyEdge_completes i left s

theorem issueBeat_completes (b : Beat) (s : State) : ∃ t, issueBeat b s = .next t := by
  cases hp : s.phase with
  | unreset => exact ⟨_, issueBeat_of_unreset b hp⟩
  | inReset => exact issueBeat_of_inReset b hp ▸ exec_completes (decode b) _
  | ready => exact issueBeat_of_ready b hp ▸ exec_completes (decode b) s
  | busy i left =>
    obtain ⟨u, hu⟩ := exec_completes i { s with phase := .ready }
    rw [issueBeat_of_busy b hp, hu, andThen_next]
    exact exec_completes (decode b) u

/-- Settles O12, by the host's next action: an idle edge, a beat, an edge or a read. -/
theorem everyStepCompletes : Obligations.EveryStepCompletes := by
  intro s
  unfold Completes
  cases hq : s.host with
  | nil => exact step_of_idle hq ▸ clockEdge_completes false false 0 s
  | cons e rest =>
    cases e with
    | beat b => exact step_of_beat hq ▸ issueBeat_completes b _
    | edge r v b => exact step_of_edge hq ▸ clockEdge_completes r v b _
    | read r a => exact ⟨_, step_of_read hq⟩

/-! ### What each indication reads (R201). -/

section
variable (s : State)

/-- E1 is the NotAscii construction error. -/
theorem indicated_e1 : indicated s .e1 = !allAscii s.typeCode := by
  simp only [indicated, typeError]
  cases allAscii s.typeCode with
  | false => rfl
  | true => cases allAlpha s.typeCode <;> rfl

/-- E2 is the NotAlphabetic construction error, to which NotAscii takes precedence. -/
theorem indicated_e2 : indicated s .e2 = (allAscii s.typeCode && !allAlpha s.typeCode) := by
  simp only [indicated, typeError]
  cases allAscii s.typeCode with
  | false => rfl
  | true => cases allAlpha s.typeCode <;> rfl

theorem indicated_e3 : indicated s .e3 = s.typeCode.getLsbD 13 := Bool.not_not _

@[simp] theorem indicated_e4 : indicated s .e4 = (s.checked && !s.matched) := rfl

@[simp] theorem indicated_e5 : indicated s .e5 = s.lenOvf := rfl

@[simp] theorem indicated_e6 : indicated s .e6 = s.illegal := rfl

end

/-- Settles O49: E1 to E3 by the tests of TYPE, E4 by CRC_CHECK's comparison, E5 by the total, E6 by the reserved rows. -/
theorem errorCodesHaveTheirCauses : Obligations.ErrorCodesHaveTheirCauses := by
  refine ⟨fun s => ⟨?_, ?_, ?_⟩, fun s e => ⟨_, rfl, rfl, ?_⟩, fun s i hi hs => ⟨_, exec_of_crcBytes hi s, ?_⟩,
    fun s i hi => ⟨_, exec_of_reserved hi s, rfl⟩⟩
  · rw [indicated_e1, Bool.not_eq_true', ← Bool.not_eq_true, allAscii_iff]
    simp
  · rw [indicated_e2, Bool.and_eq_true, Bool.not_eq_true', ← Bool.not_eq_true, allAscii_iff, allAlpha_iff]
    simp
  · rw [indicated_e3]
  · rw [indicated_e4, Bool.true_and, Bool.not_eq_true', decide_eq_false_iff_not]
    rfl
  · rw [indicated_e5, absorbBytes_lenOvf_iff (streamBytes_length_le i), hs]
    simp

/-! ### What an instruction does to each indication (R202). -/

/-- E1 to E3 are functions of TYPE. -/
theorem indicated_eq_of_typeCode_eq {s t : State} (h : t.typeCode = s.typeCode) :
    ∀ e ∈ [ErrorCode.e1, .e2, .e3], indicated t e = indicated s e := by
  simp [indicated_e1, indicated_e2, indicated_e3, h]

section
variable {old new : Bool} {Sets Clears : Prop} (h : new ≠ old → (new = true ∧ Sets) ∨ (new = false ∧ Clears))
include h

/-- An indication lasts until a command that clears it. -/
theorem stays_of_not_clears (hold : old = true) (hclears : ¬ Clears) : new = true := by
  by_contra hnew
  obtain ⟨htrue, -⟩ | ⟨-, hc⟩ := h (hold ▸ hnew)
  · exact hnew htrue
  · exact hclears hc

/-- An indication is newly raised only by a command that sets it. -/
theorem sets_of_newly_raised (hold : old = false) (hnew : new = true) : Sets := by
  obtain ⟨-, hs⟩ | ⟨hfalse, -⟩ := h (by simp [hold, hnew])
  · exact hs
  · exact absurd hnew (by simp [hfalse])

end

section
variable {i : Instr} {s t : State} (h : exec i s = .next t)
include h

/-- E4 changes only with the result of a check: CRC_CHECK writes it, and the commands of R202 clear it. -/
theorem exec_writes_e4 (hne : indicated t .e4 ≠ indicated s .e4) :
    (indicated t .e4 = true ∧ opcodeOf i = 0x8) ∨
    (indicated t .e4 = false ∧ (opcodeOf i = 0x8 ∨ i = .crcInit ∨ opcodeOf i = 0x7 ∨ IsCrcBytes i)) := by
  cases effect_of_exec h with
  | crcCheck =>
    cases hnew : indicated _ .e4 with
    | true => exact .inl ⟨rfl, rfl⟩
    | false => exact .inr ⟨rfl, .inl rfl⟩
  | crcInit => exact .inr ⟨rfl, .inr (.inl rfl)⟩
  | chunkStart => exact .inr ⟨rfl, .inr (.inr (.inl rfl))⟩
  | crcBytes hb => exact .inr ⟨rfl, .inr (.inr (.inr hb))⟩
  | nop | typeLoad | clrErr | reserved => exact absurd rfl hne

/-- CRC_INIT and CHUNK_START begin a computation, with the check's result and LEN_OVF cleared (R110, R115). -/
theorem exec_starts_computation (hi : i = .crcInit ∨ opcodeOf i = 0x7) :
    t.checked = false ∧ t.lenOvf = false := by
  have hop : opcodeOf i = 0x1 ∨ opcodeOf i = 0x7 := hi.imp_left (congrArg opcodeOf)
  cases effect_of_exec h with
  | crcInit | chunkStart => exact ⟨rfl, rfl⟩
  | crcBytes hother | reserved hother => bv_omega
  | nop | typeLoad | crcCheck | clrErr => simp [opcodeOf] at hop

theorem exec_clears_e4 (hi : i = .crcInit ∨ opcodeOf i = 0x7 ∨ IsCrcBytes i) : indicated t .e4 = false := by
  have hchecked : t.checked = false := by
    rcases or_assoc.2 hi with hstart | hb
    · exact (exec_starts_computation h hstart).1
    · obtain rfl : absorbBytes (streamBytes i) s = t := by simpa [exec_of_crcBytes hb] using h
      rfl
  simp [hchecked]

end

/-- Settles O47: an indication that differs after the instruction has been set or cleared by a command that R23 names for it. -/
theorem indicationsLastUntilTheirCommands : Obligations.IndicationsLastUntilTheirCommands := by
  refine ⟨fun s i => ?_, fun s => by simp⟩
  obtain ⟨t, ht, -, -, htype, -, -, hovf, hillegal, -⟩ := elementsAreWrittenOnlyByTheirCommands s i
  refine ⟨t, ht, fun h6 h7 => ?_, fun hs h8 hinit h7 hb => ?_, fun _ => exec_clears_e4 ht, fun hs hinit h7 => ?_,
    fun hi => (exec_starts_computation ht hi).2, stays_of_not_clears hillegal, ?_⟩
  · exact indicated_eq_of_typeCode_eq (by_contra fun hne => (htype hne).elim h6 h7)
  · exact stays_of_not_clears (exec_writes_e4 ht) hs (not_or.2 ⟨h8, not_or.2 ⟨hinit, not_or.2 ⟨h7, hb⟩⟩⟩)
  · exact stays_of_not_clears hovf hs (not_or.2 ⟨hinit, h7⟩)
  · rintro rfl
    obtain rfl : clearIllegal s = t := Host.Outcome.next.inj ht
    rfl

/-! ### Simultaneous errors and the report order (R203). -/

theorem not_e1_and_e2 (s : State) : ¬ (indicated s .e1 = true ∧ indicated s .e2 = true) := by
  rw [indicated_e1, indicated_e2]
  cases allAscii s.typeCode <;> simp

theorem find?_cons_ite {α : Type} (p : α → Bool) (a : α) (l : List α) :
    (a :: l).find? p = if p a then some a else l.find? p := by
  rw [List.find?_cons]
  cases p a <;> rfl

/-- Settles O48: a newly raised indication has been set by its own commands, and the report is a search in R203's order. -/
theorem simultaneousErrorsAndTheirReportOrder : Obligations.SimultaneousErrorsAndTheirReportOrder := by
  refine ⟨fun s i => ?_, not_e1_and_e2, fun s => ?_⟩
  · obtain ⟨t, ht, -, -, -, -, -, hovf, hillegal, -⟩ := elementsAreWrittenOnlyByTheirCommands s i
    exact ⟨t, ht, sets_of_newly_raised (exec_writes_e4 ht), sets_of_newly_raised hovf, sets_of_newly_raised hillegal⟩
  · simp only [reportedError, reportOrder, find?_cons_ite, List.find?_nil]

end Sys2Proof.Machine

/-! PROOFS. The family 70_reset_and_hazards.md: reset, release and power-up (R240, R241), the handshake (R244) and reads that are not
valid (R245). -/

namespace Sys2Proof.Machine

/-! ### What `cmd_ready` shows in each phase. -/

section
variable {s : State}

theorem cmdReady_of_unreset (h : s.phase = .unreset) (r : Bool) : cmdReady s r = Config.freeCmdReady s.draws := by
  simp [cmdReady, h]

theorem cmdReady_of_inReset (h : s.phase = .inReset) (r : Bool) : cmdReady s r = false := by
  simp [cmdReady, h]

theorem cmdReady_of_ready (h : s.phase = .ready) (r : Bool) : cmdReady s r = !r := by
  simp [cmdReady, h]

/-- R240: `rst` lowers `cmd_ready` in every phase after the first reset. -/
theorem cmdReady_rst (h : s.phase ≠ .unreset) : cmdReady s true = false := by
  cases hp : s.phase with
  | unreset => exact absurd hp h
  | inReset => exact cmdReady_of_inReset hp true
  | ready => exact cmdReady_of_ready hp true
  | busy i left => exact cmdReady_of_busy hp true

end

/-! ### Reset, release and power-up. -/

theorem resetEdge_sameElements (s : State) : SameElements (resetEdge s) State.reset := ⟨rfl, rfl, rfl, rfl, rfl, rfl, rfl⟩

/-- Settles O2: the edge is the reset edge in every phase, and the block then stands in reset. -/
theorem resetEdgeLoadsEveryElement : Obligations.ResetEdgeLoadsEveryElement := by
  refine ⟨fun s v b rest hq => ?_, fun s => cmdReady_rst⟩
  exact ⟨resetEdge { s with host := rest }, step_of_edge hq, resetEdge_sameElements _, rfl, rfl, rfl, rfl,
    cmdReady_of_inReset rfl true⟩

/-- Settles O3: the releasing edge changes the phase only. -/
theorem releaseFromResetGivesAReadyBlock : Obligations.ReleaseFromResetGivesAReadyBlock := by
  intro s v b rest hp hsame hq
  exact ⟨{ s with phase := .ready, host := rest }, (step_of_edge hq).trans (clockEdge_of_inReset v b hp), hsame, rfl,
    cmdReady_of_ready rfl false, rfl⟩

/-- Settles O4: an idle edge, a beat and an edge all draw the elements anew. -/
theorem elementsAreFreeBeforeTheFirstReset : Obligations.ElementsAreFreeBeforeTheFirstReset := by
  intro s rest hp haction
  have hdraw : step s = .next (drawElements { s with host := rest }) := by
    obtain ⟨hq, rfl⟩ | ⟨b, hq⟩ | ⟨v, b, hq⟩ := haction
    · rw [step_of_idle hq, clockEdge_of_unreset false 0 hp, ← hq]
    · exact (step_of_beat hq).trans (issueBeat_of_unreset b hp)
    · exact (step_of_edge hq).trans (clockEdge_of_unreset v b hp)
  exact ⟨hdraw, cmdReady_of_unreset hp⟩

/-! ### The handshake. -/

/-- R8, R56: the accepting edge is the whole beat where `T_CMD` is 1, else `T_CMD` - 1 more edges follow it. -/
theorem acceptBeat_by_tCmd (i : Instr) (s : State) :
    acceptBeat i s = if Config.tCmd (opcodeOf i) = 1 then exec i s
      else .next { s with phase := .busy i (Config.tCmd (opcodeOf i) - 2) } := by
  unfold Config.tCmd
  cases hextra : Config.extraCycles (opcodeOf i) with
  | zero => exact acceptBeat_of_one_cycle hextra s
  | succ n => exact acceptBeat_of_more_cycles hextra s

/-- Settles O6, by what an edge does at a ready block, in the busy window, with `rst`, and on an empty queue. -/
theorem edgeAcceptsOnlyAnOfferedBeatWhenReady : Obligations.EdgeAcceptsOnlyAnOfferedBeatWhenReady := by
  refine ⟨fun s hp => cmdReady_of_ready hp false, fun s b rest hp hq => ?notOffered, fun s b rest hp hq => ?offered,
    fun s i n v v' b b' rest hp => ?busy, fun s v b rest => (step_of_edge rfl).trans (clockEdge_rst v b _),
    fun s hq => ?idle⟩
  case notOffered => exact (step_of_edge hq).trans (clockEdge_of_ready false b hp)
  case offered =>
    have haccept : step s = acceptBeat (decode b) { s with host := rest } :=
      (step_of_edge hq).trans (clockEdge_of_ready true b hp)
    rw [haccept, acceptBeat_by_tCmd, opcodeOf_decode]
  case busy =>
    have hedge (v : Bool) (b : Beat) :
        step { s with host := .edge false v b :: rest } = busyEdge i n { s with host := rest } :=
      (step_of_edge rfl).trans (clockEdge_of_busy v b hp)
    rw [hedge, hedge]
  case idle =>
    rw [step_of_idle hq]
    exact ⟨clockEdge_of_ready false 0, fun _ => clockEdge_of_busy false 0, fun _ _ => clockEdge_of_busy false 0,
      clockEdge_of_inReset false 0⟩

/-! ### Reads that are not valid. -/

/-- Settles O10: such a read takes a free value and uses one draw. -/
theorem invalidReadIsAFreeValue : Obligations.InvalidReadIsAFreeValue := by
  intro s r a rest hinvalid hq
  have hvalid : readValid { s with host := rest } r = false := by
    rw [← Bool.not_eq_true, readValid_iff, not_and_or, Bool.not_eq_false]
    exact hinvalid
  rw [step_of_read hq]
  simp [takeRead, rdData, hvalid]

end Sys2Proof.Machine
